-- ==== Sys2Proof/Word.lean ====
section
/-! DEFINITION. The value types of the Rhino RAM block: the byte (R12) and the 13-bit request word (R52). -/

namespace Sys2Proof

/-- "A byte is 8 bits. Every storage cell, every instruction field and every data value moved by a load or
store is one byte" (R12). -/
abbrev Byte := BitVec 8

/-- The request word `REQ`, 13 bits (R52). -/
abbrev ReqWord := BitVec 13

end Sys2Proof
end

