-- ==== Sys2Proof/Config.lean ====
section
/-! DEFINITION. The implementation parameters (R7 to R10, R13), their constraints, and the free value behind the
draw `alloc_ok` (R16, R66). -/

namespace Sys2Proof

/-- The named parameters of 00_scope.md section 3. The spec gives them no value: "Every size is therefore a
named parameter that the model takes as an argument". -/
structure Config where
  /-- `MAX_RAM`, "total address-space size in bytes" (R7) -/
  maxRam : Nat
  /-- `MAX_STACK`, "size of the reserved low region, also the offset at which loaded code begins" (R8) -/
  maxStack : Nat
  /-- `LS_AW`, the width in bits of the unsigned address of a byte load or store (R9) -/
  lsAw : Nat
  /-- `FETCH_AW`, the width in bits of the two's-complement fetch address (R10) -/
  fetchAw : Nat
  deriving DecidableEq, Repr

/-- The constraints of R7 to R10. `1 ≤ fetchAw` is part of R10's `2^(FETCH_AW-1) >= MAX_RAM` read over the
rationals (DEDUCED, log entry 11): with `FETCH_AW = 0` that power is one half. -/
abbrev Config.Valid (c : Config) : Prop :=
  1 ≤ c.maxRam ∧ c.maxStack ≤ c.maxRam ∧ 1 ≤ c.lsAw ∧ 1 ≤ c.fetchAw ∧ c.maxRam ≤ 2 ^ (c.fetchAw - 1)

/-- RC1, the reference configuration: the source's scenario (R13). -/
def Config.rc1 : Config := { maxRam := 256, maxStack := 64, lsAw := 8, fetchAw := 9 }

/-- RC2, used by the test vectors only (R13). -/
def Config.rc2 : Config := { maxRam := 200, maxStack := 64, lsAw := 8, fetchAw := 9 }

/-- RC3, used by the test vectors only (R13). -/
def Config.rc3 : Config := { maxRam := 16, maxStack := 8, lsAw := 8, fetchAw := 6 }

/-- The capacity `C = MAX_RAM - MAX_STACK` of the code region (R77). -/
def Config.codeCapacity (c : Config) : Nat := c.maxRam - c.maxStack

/-- Free value (log entry 4): the draw `alloc_ok` of an `ALLOC`, "a free input of the step, chosen by the
environment, under no law" (R16), where the state lists no draw for it. It has no body, so nothing can be
proved of it; its argument is the number of draws taken before. -/
opaque Config.freeAllocOk : Nat → Bool

end Sys2Proof
end

