-- ==== Sys2Proof/Syntax.lean ====
section
/-! DEFINITION. The instructions: one constructor per row of spec/opcode_table.json, that is the nine commands and
the seven reserved values of `op` (R55), and the three-byte instruction the decoder produces (R60). -/

namespace Sys2Proof

/-- One row of the opcode table with the operands it reads (R55, R64). An address operand is the integer the
bus presents (R53): `pos = sval_FETCH_AW(fa)` for `FETCH`, `a = zext(da)` for `LOADB` and `STOREB`. -/
inductive Instr where
  /-- `ALLOC`, op 0 (R66) -/
  | alloc
  /-- `RELEASE`, op 1 (R89) -/
  | release
  /-- `LOAD_BEGIN v`, op 2, `v` the source-available flag (R72) -/
  | loadBegin (v : Bool)
  /-- `LOAD_BYTE d`, op 3 (R73) -/
  | loadByte (d : Byte)
  /-- `LOAD_END`, op 4 (R74) -/
  | loadEnd
  /-- `LOAD_ABORT`, op 5 (R75) -/
  | loadAbort
  /-- `FETCH pos`, op 6 (R80) -/
  | fetch (pos : Int)
  /-- `LOADB a`, op 7 (R85) -/
  | loadb (a : Nat)
  /-- `STOREB a, d`, op 8 (R86) -/
  | storeb (a : Nat) (d : Byte)
  /-- reserved `op` 9 (R55, R101) -/
  | reservedOp9
  /-- reserved `op` 10 (R55, R101) -/
  | reservedOp10
  /-- reserved `op` 11 (R55, R101) -/
  | reservedOp11
  /-- reserved `op` 12 (R55, R101) -/
  | reservedOp12
  /-- reserved `op` 13 (R55, R101) -/
  | reservedOp13
  /-- reserved `op` 14 (R55, R101) -/
  | reservedOp14
  /-- reserved `op` 15 (R55, R101) -/
  | reservedOp15
  /-- the three-byte instruction, "three raw bytes with the field layout of 30_encoding.md rule R60 and no
  other content" (R81) -/
  | insn (opcode arg1 arg2 : Byte)
  deriving DecidableEq, Repr

/-- One request on the request port: the word `REQ` and the two address buses (R50). A bus value is the
unsigned number on its wires; the bus is `FETCH_AW` or `LS_AW` bits wide, so only the number's low bits reach
the block (log entry 9). -/
structure Request where
  /-- `REQ` (R52) -/
  req : ReqWord
  /-- the fetch address bus `fa` (R53) -/
  fa : Nat
  /-- the data address bus `da` (R53) -/
  da : Nat
  deriving DecidableEq, Repr

/-- The two forms the opcode table encodes: a request (R52) and the three bytes of an instruction in ascending
address order (R60). -/
inductive Code where
  | request (r : Request)
  | bytes (bs : List Byte)
  deriving DecidableEq, Repr

end Sys2Proof
end

