-- ==== Sys2Proof/WellFormed.lean ====
section
/-! DEFINITION. Which instructions the ports can present under given parameters: an address operand must fit its
bus (R9, R10, R53). -/

namespace Sys2Proof

/-- `pos` is a value of the `FETCH_AW`-bit two's-complement bus `fa` (R10, R53). -/
def fetchAddrFits (c : Config) (pos : Int) : Bool :=
  decide (-(2 ^ (c.fetchAw - 1) : Int) ≤ pos) && decide (pos < (2 ^ (c.fetchAw - 1) : Int))

/-- `a` is a value of the `LS_AW`-bit unsigned bus `da` (R9, R53). -/
def dataAddrFits (c : Config) (a : Nat) : Bool := decide (a < 2 ^ c.lsAw)

/-- An instruction is well-formed when its address operand, if it has one, fits its bus; every other operand
is a bit or a byte and always fits. -/
def Instr.wellFormed (c : Config) : Instr → Bool
  | .alloc => true
  | .release => true
  | .loadBegin _ => true
  | .loadByte _ => true
  | .loadEnd => true
  | .loadAbort => true
  | .fetch pos => fetchAddrFits c pos
  | .loadb a => dataAddrFits c a
  | .storeb a _ => dataAddrFits c a
  | .reservedOp9 => true
  | .reservedOp10 => true
  | .reservedOp11 => true
  | .reservedOp12 => true
  | .reservedOp13 => true
  | .reservedOp14 => true
  | .reservedOp15 => true
  | .insn _ _ _ => true

end Sys2Proof
end

