-- ==== Sys2Proof/Decode.lean ====
section
/-! DEFINITION. The two decoders of the spec, the request decoder (R52, R53, R55, R56) and the instruction decoder
(R60 to R63), and after them the encoders written from the same tables. -/

namespace Sys2Proof

/-- Why a string of bits or bytes is no instruction. -/
inductive DecodeError where
  /-- fewer than the three bytes every instruction has (R63) -/
  | truncated
  /-- bits above the form's width are set: `REQ` is 13 bits (R52), `W` is 24 (R60) -/
  | tooWide
  /-- a length the opcode table gives no row -/
  | noSuchLength
  deriving DecidableEq, Repr

/-- `sval_N(v)`, "the two's-complement value of an `N`-bit field: `v - 2^N` if `v[N-1] = 1`, else `v`" (R15,
G2), of the low `n` bits of `v`. -/
def sval (n v : Nat) : Int :=
  if v % 2 ^ n < 2 ^ (n - 1) then ((v % 2 ^ n : Nat) : Int) else ((v % 2 ^ n : Nat) : Int) - 2 ^ n

/-- `zext(v)`, "the non-negative integer value of an unsigned bit field" (R15), of the low `n` bits of `v`. -/
def zext (n v : Nat) : Nat := v % 2 ^ n

/-- The bus value of `n` bits that presents the integer `x`: "The `fa` value for a `pos` is `pos mod
2^FETCH_AW`" (95_test_vectors.md). -/
def busOfInt (n : Nat) (x : Int) : Nat := (x % (2 ^ n : Int)).toNat

/-- `REQ[12:9]` (R52). -/
def reqOp (w : ReqWord) : BitVec 4 := w.extractLsb' 9 4

/-- `REQ[8]` (R52). -/
def reqV (w : ReqWord) : Bool := w.getLsbD 8

/-- `REQ[7:0]` (R52). -/
def reqD (w : ReqWord) : Byte := w.extractLsb' 0 8

/-- The command map of R55: `op` selects the command, which reads the fields listed there and no other (R56).
Total: every one of the sixteen values of `op` has its row. -/
def decodeRequest (c : Config) (r : Request) : Instr :=
  match (reqOp r.req).toNat with
  | 0 => .alloc
  | 1 => .release
  | 2 => .loadBegin (reqV r.req)
  | 3 => .loadByte (reqD r.req)
  | 4 => .loadEnd
  | 5 => .loadAbort
  | 6 => .fetch (sval c.fetchAw r.fa)
  | 7 => .loadb (zext c.lsAw r.da)
  | 8 => .storeb (zext c.lsAw r.da) (reqD r.req)
  | 9 => .reservedOp9
  | 10 => .reservedOp10
  | 11 => .reservedOp11
  | 12 => .reservedOp12
  | 13 => .reservedOp13
  | 14 => .reservedOp14
  | _ => .reservedOp15

/-- The instruction decoder: the first three bytes, in ascending address order, are `opcode`, `arg1`, `arg2`
(R60); "Every one of the 2^24 three-byte patterns decodes" (R62). It gives back the bytes after them. -/
def decodeInsn : List Byte → Except DecodeError (Instr × List Byte)
  | opcode :: arg1 :: arg2 :: rest => .ok (.insn opcode arg1 arg2, rest)
  | [] => .error .truncated
  | [_] => .error .truncated
  | [_, _] => .error .truncated

/-- Decoding of either form of code. -/
def decode (c : Config) : Code → Except DecodeError Instr
  | .request r => .ok (decodeRequest c r)
  | .bytes bs => (decodeInsn bs).map Prod.fst

/-- `REQ = op * 0x200 + v * 0x100 + d` (R52). -/
def reqWord (op : BitVec 4) (v : Bool) (d : Byte) : ReqWord :=
  BitVec.ofNat 13 (op.toNat * 0x200 + v.toNat * 0x100 + d.toNat)

/-- The request that carries a command (R55), the fields it does not read being zero; for `INSN`, which is no
command, see `encode`. A reserved `op` is encoded by its number. -/
def encodeRequest (c : Config) : Instr → Option Request
  | .alloc => some ⟨reqWord 0 false 0, 0, 0⟩
  | .release => some ⟨reqWord 1 false 0, 0, 0⟩
  | .loadBegin v => some ⟨reqWord 2 v 0, 0, 0⟩
  | .loadByte d => some ⟨reqWord 3 false d, 0, 0⟩
  | .loadEnd => some ⟨reqWord 4 false 0, 0, 0⟩
  | .loadAbort => some ⟨reqWord 5 false 0, 0, 0⟩
  | .fetch pos => some ⟨reqWord 6 false 0, busOfInt c.fetchAw pos, 0⟩
  | .loadb a => some ⟨reqWord 7 false 0, 0, a⟩
  | .storeb a d => some ⟨reqWord 8 false d, 0, a⟩
  | .reservedOp9 => some ⟨reqWord 9 false 0, 0, 0⟩
  | .reservedOp10 => some ⟨reqWord 10 false 0, 0, 0⟩
  | .reservedOp11 => some ⟨reqWord 11 false 0, 0, 0⟩
  | .reservedOp12 => some ⟨reqWord 12 false 0, 0, 0⟩
  | .reservedOp13 => some ⟨reqWord 13 false 0, 0, 0⟩
  | .reservedOp14 => some ⟨reqWord 14 false 0, 0, 0⟩
  | .reservedOp15 => some ⟨reqWord 15 false 0, 0, 0⟩
  | .insn _ _ _ => none

/-- The bytes of an instruction in ascending address order (R60). -/
def encodeBytes : Instr → List Byte
  | .insn opcode arg1 arg2 => [opcode, arg1, arg2]
  | _ => []

/-- The code of an instruction: a request for a command, three bytes for `INSN`. -/
def encode (c : Config) (i : Instr) : Code :=
  match encodeRequest c i with
  | some r => .request r
  | none => .bytes (encodeBytes i)

/-- The packed word `W = opcode ++ arg1 ++ arg2` (R60), as the three bytes in ascending address order. -/
def bytesOfPacked (w : Nat) : List Byte :=
  [BitVec.ofNat 8 (w / 2 ^ 16), BitVec.ofNat 8 (w / 2 ^ 8), BitVec.ofNat 8 w]

/-- The request whose `REQ` is the number `w` and whose address buses are zero. -/
def requestOfWord (w : Nat) : Request := ⟨BitVec.ofNat 13 w, 0, 0⟩

/-- Reads a row of spec/opcode_table.json: 13 bits (16 in whole bytes) for a request word, with the address
buses, which the table gives no bits, at zero; 24 bits for the packed word `W` of an instruction (R60). Under
zero buses the parameters do not matter to the request decoder; RC1 stands in (log entry 10). -/
def decodeTable (nbits w : Nat) : Except DecodeError Instr :=
  if nbits = 24 then
    if w < 2 ^ 24 then decode Config.rc1 (.bytes (bytesOfPacked w)) else .error .tooWide
  else if nbits ≤ 16 then
    if w < 2 ^ 13 then decode Config.rc1 (.request (requestOfWord w)) else .error .tooWide
  else .error .noSuchLength

/-- The instruction the decoder reads from a word numbered as spec/opcode_table.json numbers it. -/
def decodeTableWord (nbits w : Nat) : Option Instr := (decodeTable nbits w).toOption

end Sys2Proof
end

