-- ==== Sys2Proof/Machine/State.lean ====
section
/-! DEFINITION. The state of the block (R17), its ports (R50), its reset value (R32, R114), and the reasons a step
can stop. -/

namespace Sys2Proof.Machine

/-- The lifecycle of the storage (R18). -/
inductive Life where
  /-- "no storage exists yet (after reset, or after a failed `ALLOC`)" -/
  | unalloc
  /-- "storage exists and no load session is open" -/
  | ready
  /-- "storage exists and a load session is open" -/
  | loading
  /-- "the storage was released" -/
  | released
  deriving DecidableEq, Repr

/-- The commands as the protocol table of R101 groups its rows: the nine commands and the reserved `op`s. -/
inductive Command where
  | alloc
  | release
  | loadBegin
  | loadByte
  | loadEnd
  | loadAbort
  | fetch
  | loadb
  | storeb
  | reserved
  deriving DecidableEq, Repr

/-- The reasons of the protocol table (R101): "the reasons are informational and all are the one fault of rule
R102". -/
inductive ProtocolFault where
  | allocWhileAllocated
  | releaseNotAllocated
  | useBeforeAlloc
  | useAfterRelease
  | loadBeginNotReady
  | loadByteOutsideSession
  | loadEndOutsideSession
  | loadAbortOutsideSession
  | fetchNotReady
  | dataNotReady
  | reservedOp
  deriving DecidableEq, Repr

/-- The status of a response (R92). "Status values 6 and 7: never produced; a model's status type has six
values" (S6). -/
inductive Status where
  | ok
  | allocationError
  | sourceUnavailableError
  | codeTooLargeError
  | memoryOverflowError
  | addressOutOfRangeError
  deriving DecidableEq, Repr

/-- A response (R54): its status and its data bytes, `r0` first. "A model gives such a response no data bytes at
all" where the spec leaves `r0`, `r1`, `r2` unspecified (R58, S1; log entry 8). -/
structure Response where
  status : Status
  data : List Byte
  deriving DecidableEq, Repr

/-- Storage contents: address and byte pairs in one canonical form, addresses strictly rising and no byte equal
to 0, which is what an unlisted address reads as (R66: `ALLOC` zero-fills; log entry 6). -/
abbrev Memory := List Host.Cell

/-- The state. `life`, `mem`, `lcnt`, `snap` and `faulted` are the spec's components (R17). `cfg` holds the
parameters, which the block presents as its configuration outputs at all times and no request writes (R28,
R59; log entry 1). `reqs` and `resp` are the request and response ports (R50; log entries 2 and 3). `draws` and
`drawCount` are the model's own: the free input `alloc_ok` (R16; log entry 4). -/
structure State where
  /-- the parameters (R7 to R10), presented as `CFG_MAX_RAM` and `CFG_MAX_STACK` (R28) -/
  cfg : Config
  /-- lifecycle state of the storage (R18) -/
  life : Life
  /-- the storage (R19) -/
  mem : Memory
  /-- number of source bytes written by the open load session (R21) -/
  lcnt : Nat
  /-- copy of `mem` taken when the load session opened (R22) -/
  snap : Memory
  /-- the sticky record of a request outside the protocol (R23): `none` is the spec's false, `some` its true,
  with the reason of R101 -/
  faulted : Option ProtocolFault
  /-- the requests the host presents, in order; the head is the one on the request port (R50, R51) -/
  reqs : List Request
  /-- what the response port presents: the response to the latest request (R50, R54) -/
  resp : Option Response
  /-- the environment's draws of `alloc_ok` still to come (R16, R66) -/
  draws : List Bool
  /-- how many draws were taken -/
  drawCount : Nat
  deriving DecidableEq, Repr

/-- Why the machine stops. -/
inductive Fault where
  /-- Raised by every step from a state that has recorded a protocol fault: "the faulted state has no further
  step" (R102). Safe: the model stops where the hardware's behaviour is undefined. -/
  | protocolFault (reason : ProtocolFault)
  deriving DecidableEq, Repr

/-- Why an instruction has no meaning. -/
inductive Refusal where
  /-- Raised by an arm of `exec` whose instruction has no meaning yet. Safe. No arm raises it. -/
  | notModelled (mnemonic : String)
  deriving DecidableEq, Repr

/-- The state after a hardware reset of a block built with the given parameters (R32, R114): `life = UNALLOC`,
`faulted` false. `mem`, `lcnt` and `snap` are unspecified and unobservable; the values here are the model's
(DESIGN CHOICE, log entries 6 and 7), as are the empty ports and draws (log entries 2, 3 and 4). -/
def State.resetWith (cfg : Config) : State where
  cfg := cfg
  life := .unalloc
  mem := []
  lcnt := 0
  snap := []
  faulted := none
  reqs := []
  resp := none
  draws := []
  drawCount := 0

/-- The state after reset in the reference configuration RC1 (R13; DESIGN CHOICE, log entry 1). -/
def State.reset : State := State.resetWith Config.rc1

end Sys2Proof.Machine
end

