-- ==== Sys2Proof/Machine/Flags.lean ====
section
/-! DEFINITION. The block has no status flags or condition codes (R27); what a request reports is the status field of
its response. This file gives the codes of R92. -/

namespace Sys2Proof.Machine

/-- The 3-bit status code (R92). -/
def Status.code : Status → BitVec 3
  | .ok => 0
  | .allocationError => 1
  | .sourceUnavailableError => 2
  | .codeTooLargeError => 3
  | .memoryOverflowError => 4
  | .addressOutOfRangeError => 5

/-- What the response port carries (R54): the status code and the data bytes. -/
def Response.port (r : Response) : BitVec 3 × List Byte := (r.status.code, r.data)

end Sys2Proof.Machine
end

