-- ==== Sys2Proof/Machine/Operands.lean ====
section
/-! DEFINITION. Operand checks: the bounds checkers of the fetch port (R80) and of the data port (R84), the address of
the next source byte (R73), and the configuration outputs (R59). All arithmetic is on integers (R15). -/

namespace Sys2Proof.Machine

/-- The output `CFG_MAX_RAM` (R28, R59). -/
def State.cfgMaxRam (s : State) : Nat := s.cfg.maxRam

/-- The output `CFG_MAX_STACK` (R28, R59). -/
def State.cfgMaxStack (s : State) : Nat := s.cfg.maxStack

/-- The check of R80 fails: `pos < 0 or pos + 2 >= MAX_RAM`, "integer arithmetic, no wrap". -/
def fetchOverflows (c : Config) (pos : Int) : Bool :=
  decide (pos < 0) || decide ((c.maxRam : Int) ≤ pos + 2)

/-- The data address is in range "exactly when `a < MAX_RAM`" (R84). -/
def dataInRange (c : Config) (a : Nat) : Bool := decide (a < c.maxRam)

/-- "the next source byte goes to address `MAX_STACK + lcnt`" (R21, R73). -/
def State.loadAddr (s : State) : Nat := s.cfg.maxStack + s.lcnt

/-- The check of R73 fails: `a >= MAX_RAM` for the address of the next source byte. -/
def loadOverflows (s : State) : Bool := decide (s.cfg.maxRam ≤ s.loadAddr)

end Sys2Proof.Machine
end

