-- ==== Sys2Proof/Machine/Ops.lean ====
section
/-! DEFINITION. The named operations over storage, ports and lifecycle: the pseudocode primitives of R16, the protocol
table of R101, and the one way a command is served (R102, R103). -/

namespace Sys2Proof.Machine

/-! ## Storage -/

/-- The byte at `a`; an unlisted address reads 0 (R66). -/
def Memory.read (m : Memory) (a : Nat) : Byte :=
  match m with
  | [] => 0
  | (b, v) :: t => if b = a then v else Memory.read t a

/-- Puts a cell before the first listed address above its own. -/
def Memory.insert (a : Nat) (v : Byte) : Memory → Memory
  | [] => [(a, v)]
  | (b, w) :: t => if a < b then (a, v) :: (b, w) :: t else (b, w) :: Memory.insert a v t

/-- Unlists `a`. -/
def Memory.erase (m : Memory) (a : Nat) : Memory := m.filter (fun c => !decide (c.1 = a))

/-- The storage with `v` at `a`, in canonical form: writing 0 unlists the address. -/
def Memory.write (m : Memory) (a : Nat) (v : Byte) : Memory :=
  if v = 0 then m.erase a else Memory.insert a v (m.erase a)

/-- Every listed address is above `a`, they rise strictly, and no listed byte is 0. -/
def Memory.wfAbove : Option Nat → Memory → Bool
  | _, [] => true
  | none, (b, v) :: t => decide (v ≠ 0) && Memory.wfAbove (some b) t
  | some a, (b, v) :: t => decide (a < b) && (decide (v ≠ 0) && Memory.wfAbove (some b) t)

/-- The canonical form. -/
def Memory.wf (m : Memory) : Bool := Memory.wfAbove none m

/-- No listed address is at or above `n`: with `n = MAX_RAM`, "indices `0 .. MAX_RAM-1` are valid addresses"
(R19). -/
def Memory.within (m : Memory) (n : Nat) : Bool := m.all (fun c => decide (c.1 < n))

/-- Zero-filled storage (R66): `for a in 0 .. MAX_RAM-1: MemWrite(a, 1, 0x00)`. -/
def Memory.zero : Memory := []

/-- `for a in base .. base + n - 1: MemWrite(a, 1, snap[a])` (R75), in ascending order. -/
def Memory.restore (m snap : Memory) (base : Nat) : Nat → Memory
  | 0 => m
  | n + 1 => (Memory.restore m snap base n).write (base + n) (snap.read (base + n))

/-- `MemRead(a, 1)` (R16). -/
def State.memRead (s : State) (a : Nat) : Byte := s.mem.read a

/-- `MemWrite(a, 1, v)` (R16): "sets `mem[a] <- v` and changes nothing else". -/
def State.memWrite (s : State) (a : Nat) (v : Byte) : State := { s with mem := s.mem.write a v }

/-! ## Responses, errors and protocol faults -/

/-- `respond(status, data)` (R16): the response of the current request. -/
def State.respond (s : State) (status : Status) (data : List Byte) : State :=
  { s with resp := some { status := status, data := data } }

/-- `raise E` (R16), the block's only error mechanism (R91): "the response whose status is the code of error `E`
and no data". It saves no state, changes no mode and transfers no control (R105); nothing returns from it
(R106). -/
def State.raise (s : State) (e : Status) : State := s.respond e []

/-- `fault ProtocolFault(reason)` (R16, R102): "The model records `faulted <- true`". The hardware gives "any
response, any state change"; the model presents no response and, as the faulted state has no further step,
keeps the other components as they were (log entry 5). -/
def State.recordFault (s : State) (reason : ProtocolFault) : State :=
  { s with faulted := some reason, resp := none }

/-- The protocol table of R101: `none` where the table says "ok", else the cell's reason. -/
def protocolCheck : Command → Life → Option ProtocolFault
  | .alloc, .unalloc => none
  | .alloc, .ready => some .allocWhileAllocated
  | .alloc, .loading => some .allocWhileAllocated
  | .alloc, .released => none
  | .release, .unalloc => some .releaseNotAllocated
  | .release, .ready => none
  | .release, .loading => none
  | .release, .released => some .releaseNotAllocated
  | .loadBegin, .unalloc => some .useBeforeAlloc
  | .loadBegin, .ready => none
  | .loadBegin, .loading => some .loadBeginNotReady
  | .loadBegin, .released => some .useAfterRelease
  | .loadByte, .unalloc => some .useBeforeAlloc
  | .loadByte, .ready => some .loadByteOutsideSession
  | .loadByte, .loading => none
  | .loadByte, .released => some .useAfterRelease
  | .loadEnd, .unalloc => some .useBeforeAlloc
  | .loadEnd, .ready => some .loadEndOutsideSession
  | .loadEnd, .loading => none
  | .loadEnd, .released => some .useAfterRelease
  | .loadAbort, .unalloc => some .useBeforeAlloc
  | .loadAbort, .ready => some .loadAbortOutsideSession
  | .loadAbort, .loading => none
  | .loadAbort, .released => some .useAfterRelease
  | .fetch, .unalloc => some .useBeforeAlloc
  | .fetch, .ready => none
  | .fetch, .loading => some .fetchNotReady
  | .fetch, .released => some .useAfterRelease
  | .loadb, .unalloc => some .useBeforeAlloc
  | .loadb, .ready => none
  | .loadb, .loading => some .dataNotReady
  | .loadb, .released => some .useAfterRelease
  | .storeb, .unalloc => some .useBeforeAlloc
  | .storeb, .ready => none
  | .storeb, .loading => some .dataNotReady
  | .storeb, .released => some .useAfterRelease
  | .reserved, _ => some .reservedOp

/-- How every command is served (R102, R103): a state that has recorded a protocol fault has no further step;
then "the protocol check of rule R101 is made first; only a legal request goes on to its command's own check",
which `rule` gives, with its effect. -/
def State.serve (s : State) (c : Command) (rule : State → State) : Host.Outcome State Fault Refusal :=
  match s.faulted with
  | some reason => .fault (.protocolFault reason)
  | none =>
    match protocolCheck c s.life with
    | some reason => .next (s.recordFault reason)
    | none => .next (rule s)

/-! ## The draw -/

/-- The draw `alloc_ok` (R16, R66): the environment's next draw, or the free value where the state lists none
(log entry 4). -/
def State.allocOk (s : State) : Bool :=
  match s.draws with
  | b :: _ => b
  | [] => Config.freeAllocOk s.drawCount

/-- The state after that draw: it is used up, and the next one is another. -/
def State.afterDraw (s : State) : State := { s with draws := s.draws.tail, drawCount := s.drawCount + 1 }

/-! ## The request port -/

/-- The request on the port is taken (R51). -/
def State.takeRequest (s : State) : State := { s with reqs := s.reqs.tail }

/-- No request is presented: the block waits, doing nothing, since it "never initiates a transaction" (R51); a
faulted state has no further step (R102). -/
def State.idle (s : State) : Host.Outcome State Fault Refusal :=
  match s.faulted with
  | some reason => .fault (.protocolFault reason)
  | none => .next s

/-- Presents a request on the port, in place of the one there. -/
def State.present (s : State) (r : Request) : State := { s with reqs := r :: s.reqs.tail }

/-- Where `withFetchWord` places the bytes of an instruction: `MAX_STACK`, where code load places the first
source byte (R36), or lower where `MAX_STACK` leaves no room for three bytes. -/
def insnSlot (c : Config) : Nat := min c.maxStack (c.maxRam - 3)

/-- Writes bytes at ascending addresses. -/
def Memory.place (m : Memory) (a : Nat) : List Byte → Memory
  | [] => m
  | b :: t => Memory.place (m.write a b) (a + 1) t

/-- Storage that exists, with no load session open, holding the bytes of an instruction, and a `FETCH` of them
on the request port: all that the next step needs to fetch and decode them (R80; log entry 12). -/
def State.presentInsn (s : State) (bs : List Byte) : State :=
  { s with
    life := .ready
    mem := s.mem.place (insnSlot s.cfg) bs
    reqs := ⟨reqWord 6 false 0, busOfInt s.cfg.fetchAw (insnSlot s.cfg), 0⟩ :: s.reqs.tail }

end Sys2Proof.Machine
end

