-- ==== Sys2Proof/Machine/Allocation.lean ====
section
/-! DEFINITION. The lifecycle commands: ALLOC (40_allocation.md) and RELEASE (44_release.md). -/

namespace Sys2Proof.Machine

/-- `ALLOC` (R66): the draw decides between `AllocationError`, which leaves `life` and `mem` unchanged (R67),
and a zero-filled storage in `READY`. -/
def execAlloc (s : State) : Host.Outcome State Fault Refusal :=
  s.serve .alloc fun s =>
    if s.allocOk then { s.afterDraw with mem := Memory.zero, life := .ready }.respond .ok []
    else s.afterDraw.raise .allocationError

/-- `RELEASE` (R89): "`life <- RELEASED` -- mem, lcnt, snap lose their meaning". -/
def execRelease (s : State) : Host.Outcome State Fault Refusal :=
  s.serve .release fun s => { s with life := .released }.respond .ok []

end Sys2Proof.Machine
end

