-- ==== Sys2Proof/Machine/ByteAccess.lean ====
section
/-! DEFINITION. The byte load and store port with its bounds checker (43_byte_access.md): LOADB, STOREB. -/

namespace Sys2Proof.Machine

/-- `LOADB a` (R85): the byte at `a`, or `AddressOutOfRangeError`. No state changes. -/
def execLoadb (a : Nat) (s : State) : Host.Outcome State Fault Refusal :=
  s.serve .loadb fun s =>
    if dataInRange s.cfg a then s.respond .ok [s.memRead a] else s.raise .addressOutOfRangeError

/-- `STOREB a, d` (R86): writes the byte, or `AddressOutOfRangeError` with nothing written. -/
def execStoreb (a : Nat) (d : Byte) (s : State) : Host.Outcome State Fault Refusal :=
  s.serve .storeb fun s =>
    if dataInRange s.cfg a then (s.memWrite a d).respond .ok [] else s.raise .addressOutOfRangeError

end Sys2Proof.Machine
end

