-- ==== Sys2Proof/Machine/CodeLoad.lean ====
section
/-! DEFINITION. The code-load port (41_code_load.md): LOAD_BEGIN, LOAD_BYTE, LOAD_END, LOAD_ABORT. -/

namespace Sys2Proof.Machine

/-- `LOAD_BEGIN v` (R72): with `v = 0` the source is unavailable; with `v = 1` a session opens. -/
def execLoadBegin (v : Bool) (s : State) : Host.Outcome State Fault Refusal :=
  s.serve .loadBegin fun s =>
    if v then { s with snap := s.mem, lcnt := 0, life := .loading }.respond .ok []
    else s.raise .sourceUnavailableError

/-- `LOAD_BYTE d` (R73): the byte goes to `MAX_STACK + lcnt`, or the session closes with `CodeTooLargeError`
where that address is `MAX_RAM` or above, the bytes already written staying. -/
def execLoadByte (d : Byte) (s : State) : Host.Outcome State Fault Refusal :=
  s.serve .loadByte fun s =>
    if loadOverflows s then { s with life := .ready }.raise .codeTooLargeError
    else { s.memWrite s.loadAddr d with lcnt := s.lcnt + 1 }.respond .ok []

/-- `LOAD_END` (R74): closes the session successfully. -/
def execLoadEnd (s : State) : Host.Outcome State Fault Refusal :=
  s.serve .loadEnd fun s => { s with life := .ready }.respond .ok []

/-- `LOAD_ABORT` (R75): undoes every byte of the session and closes it with `SourceUnavailableError`. -/
def execLoadAbort (s : State) : Host.Outcome State Fault Refusal :=
  s.serve .loadAbort fun s =>
    { s with mem := s.mem.restore s.snap s.cfg.maxStack s.lcnt, life := .ready }.raise .sourceUnavailableError

end Sys2Proof.Machine
end

