-- ==== Sys2Proof/Machine/Fetch.lean ====
section
/-! DEFINITION. The instruction fetch port and its decoder (42_fetch_decode.md): FETCH, and INSN, the instruction the
decoder puts out. -/

namespace Sys2Proof.Machine

/-- The decoder's output (R81): the response carries the Instruction `{opcode, arg1, arg2}`, "three raw bytes",
`r0 = opcode`, `r1 = arg1`, `r2 = arg2` (R54); nothing is executed. -/
def State.decoderOutput (s : State) (opcode arg1 arg2 : Byte) : State := s.respond .ok [opcode, arg1, arg2]

/-- `FETCH pos` (R80): `MemoryOverflowError`, or the three bytes at `pos`, `pos + 1`, `pos + 2` through the
decoder. No state changes. -/
def execFetch (pos : Int) (s : State) : Host.Outcome State Fault Refusal :=
  s.serve .fetch fun s =>
    if fetchOverflows s.cfg pos then s.raise .memoryOverflowError
    else s.decoderOutput (s.memRead pos.toNat) (s.memRead (pos.toNat + 1)) (s.memRead (pos.toNat + 2))

/-- `INSN` (R60 to R62, R81): an instruction on the decoder, which "accepts every byte value in every field" and
"attaches no meaning to any". The block gives it no other effect: "A fetch does not execute anything". The
decoder is reached by a fetch only, so the protocol row is FETCH's (DEDUCED, log entry 13). -/
def execInsn (opcode arg1 arg2 : Byte) (s : State) : Host.Outcome State Fault Refusal :=
  s.serve .fetch fun s => s.decoderOutput opcode arg1 arg2

end Sys2Proof.Machine
end

