-- ==== Sys2Proof/Machine/Reserved.lean ====
section
/-! DEFINITION. The reserved values 9 to 15 of `op` (R55): "A reserved `op` is not a command: the hardware behaviour is
undefined and the model faults", in every `life` with the reason ReservedOp (R101). -/

namespace Sys2Proof.Machine

/-- What a request with a reserved `op` does (R101, R102): the protocol fault ReservedOp is recorded. No rule of
a command follows the protocol check. -/
def State.serveReserved (s : State) : Host.Outcome State Fault Refusal := s.serve .reserved id

/-- `op = 9` (R55, R101). -/
def execReservedOp9 (s : State) : Host.Outcome State Fault Refusal := s.serveReserved

/-- `op = 10` (R55, R101). -/
def execReservedOp10 (s : State) : Host.Outcome State Fault Refusal := s.serveReserved

/-- `op = 11` (R55, R101). -/
def execReservedOp11 (s : State) : Host.Outcome State Fault Refusal := s.serveReserved

/-- `op = 12` (R55, R101). -/
def execReservedOp12 (s : State) : Host.Outcome State Fault Refusal := s.serveReserved

/-- `op = 13` (R55, R101). -/
def execReservedOp13 (s : State) : Host.Outcome State Fault Refusal := s.serveReserved

/-- `op = 14` (R55, R101). -/
def execReservedOp14 (s : State) : Host.Outcome State Fault Refusal := s.serveReserved

/-- `op = 15` (R55, R101). -/
def execReservedOp15 (s : State) : Host.Outcome State Fault Refusal := s.serveReserved

end Sys2Proof.Machine
end

