-- ==== Sys2Proof/Machine/Dispatch.lean ====
section
/-! DEFINITION. One arm per constructor of Instr, each a direct call of its meaning. -/

namespace Sys2Proof.Machine

/-- What an instruction does to a state. -/
def exec (i : Instr) (s : State) : Host.Outcome State Fault Refusal :=
  match i with
  | .alloc => Sys2Proof.Machine.execAlloc s
  | .release => Sys2Proof.Machine.execRelease s
  | .loadBegin v => Sys2Proof.Machine.execLoadBegin v s
  | .loadByte d => Sys2Proof.Machine.execLoadByte d s
  | .loadEnd => Sys2Proof.Machine.execLoadEnd s
  | .loadAbort => Sys2Proof.Machine.execLoadAbort s
  | .fetch pos => Sys2Proof.Machine.execFetch pos s
  | .loadb a => Sys2Proof.Machine.execLoadb a s
  | .storeb a d => Sys2Proof.Machine.execStoreb a d s
  | .reservedOp9 => Sys2Proof.Machine.execReservedOp9 s
  | .reservedOp10 => Sys2Proof.Machine.execReservedOp10 s
  | .reservedOp11 => Sys2Proof.Machine.execReservedOp11 s
  | .reservedOp12 => Sys2Proof.Machine.execReservedOp12 s
  | .reservedOp13 => Sys2Proof.Machine.execReservedOp13 s
  | .reservedOp14 => Sys2Proof.Machine.execReservedOp14 s
  | .reservedOp15 => Sys2Proof.Machine.execReservedOp15 s
  | .insn opcode arg1 arg2 => Sys2Proof.Machine.execInsn opcode arg1 arg2 s

end Sys2Proof.Machine
end

