-- ==== Sys2Proof/Machine/Step.lean ====
section
/-! DEFINITION. One step: the block takes the request on its port, decodes it and performs it (R51, R55). -/

namespace Sys2Proof.Machine

/-- "the block performs it atomically and presents exactly one response" (R51): the head request is taken and
performed; with no request presented the block is idle. -/
def step (s : State) : Host.Outcome State Fault Refusal :=
  match s.reqs with
  | [] => s.idle
  | r :: _ => exec (decodeRequest s.cfg r) s.takeRequest

/-- The state with a row of the opcode table placed where the next step takes its instruction from (log entry
12): a request word on the request port, or, for the 24 bits of `INSN`, its three bytes in storage with a
`FETCH` of them on the port. -/
def State.withFetchWord (s : State) (nbits w : Nat) : State :=
  if nbits = 24 then s.presentInsn (bytesOfPacked w) else s.present (requestOfWord w)

end Sys2Proof.Machine
end

