-- ==== Sys2Proof/Machine/RunEnd.lean ====
section
/-! DEFINITION. The end of a run (R121): in which of the spec's three ways it has ended, and whether that is a
successful end. -/

namespace Sys2Proof.Machine

/-- "A run of the block ends in exactly one of these ways" (R121). -/
inductive RunEnd where
  /-- "the host issues `RELEASE` and then no further request" -/
  | released
  /-- "the host halts after an error response as rule R120 requires"; after `SourceUnavailableError` the host
  chose to abort and not to retry -/
  | halted (error : Status)
  /-- "the model records a protocol fault" -/
  | protocolFault (reason : ProtocolFault)
  deriving DecidableEq, Repr

/-- How the run has ended in a state, if it has (R121). `reqs` holds every request the host still makes, so an
empty list is a host that sends nothing more (log entry 17); the response port holds the response to its last
request. A run with a request still to come, or whose host stops after an `OK` other than `RELEASE`'s, has not
ended. -/
def State.runEnd (s : State) : Option RunEnd :=
  match s.faulted with
  | some reason => some (.protocolFault reason)
  | none =>
    match s.reqs with
    | _ :: _ => none
    | [] =>
      match s.resp with
      | none => none
      | some p =>
        if p.status = .ok then if s.life = .released then some .released else none
        else some (.halted p.status)

/-- Whether an end is a successful one: the end by `RELEASE` is, "if no protocol fault was recorded", and a
recorded fault is "never a successful end" (R121, R23). Of the end by a halt on an error R121 says neither; that it
is not successful is the model's (log entry 18, DESIGN CHOICE). -/
def RunEnd.successful : RunEnd → Bool
  | .released => true
  | .halted _ => false
  | .protocolFault _ => false

end Sys2Proof.Machine
end

