-- ==== Sys2Proof/Machine/Session.lean ====
section
/-! DEFINITION. Load sessions as the host drives them: the pseudo-command LOADCODE (R65) and the request sequences of a
whole session (R71, R77). -/

namespace Sys2Proof.Machine

/-- What the host's byte source does (R77). -/
inductive Source where
  /-- it "cannot be opened/read at all" -/
  | unavailable
  /-- it gives these bytes and ends -/
  | complete (bs : List Byte)
  /-- it gives these bytes and then fails -/
  | failedAfter (bs : List Byte)
  deriving DecidableEq, Repr

/-- The commands a session sends (R65, R77): cut short at the first response that is not `OK`, so of a source
too large for the code region, of capacity `C`, the host sends `C + 1` bytes and then nothing (R118). A source
that fails after more than `C` bytes has been cut short there too (DEDUCED, log entry 16). -/
def Source.commands (c : Config) : Source → List Instr
  | .unavailable => [.loadBegin false]
  | .complete bs =>
    if bs.length ≤ c.codeCapacity then .loadBegin true :: (bs.map .loadByte ++ [.loadEnd])
    else .loadBegin true :: (bs.take (c.codeCapacity + 1)).map .loadByte
  | .failedAfter bs =>
    if bs.length ≤ c.codeCapacity then .loadBegin true :: (bs.map .loadByte ++ [.loadAbort])
    else .loadBegin true :: (bs.take (c.codeCapacity + 1)).map .loadByte

/-- The requests that carry a list of commands (R55). -/
def requestsOf (c : Config) (is : List Instr) : List Request := is.filterMap (encodeRequest c)

/-- The byte at address `a` after `LoadCode(m, src)` (R77), from the storage `m` before it. -/
def Source.byteAfter (c : Config) (src : Source) (m : Memory) (a : Nat) : Byte :=
  match src with
  | .unavailable => m.read a
  | .complete bs =>
    if c.maxStack ≤ a ∧ a < c.maxStack + min bs.length c.codeCapacity then bs.getD (a - c.maxStack) 0
    else m.read a
  | .failedAfter bs =>
    if c.codeCapacity < bs.length ∧ c.maxStack ≤ a ∧ a < c.maxRam then bs.getD (a - c.maxStack) 0
    else m.read a

/-- The final status of `LoadCode(m, src)` (R77). -/
def Source.status (c : Config) : Source → Status
  | .unavailable => .sourceUnavailableError
  | .complete bs => if bs.length ≤ c.codeCapacity then .ok else .codeTooLargeError
  | .failedAfter bs => if bs.length ≤ c.codeCapacity then .sourceUnavailableError else .codeTooLargeError

end Sys2Proof.Machine
end

