-- ==== Sys2Proof/Safety.lean ====
section
/-! DEFINITION. What claims are stated in: the command an instruction is, when a request is legal (R101), and the
invariant of a run without a protocol fault (R19, R24, R102). -/

namespace Sys2Proof.Machine

/-- The row of the protocol table an instruction stands in (R101); an instruction on the decoder stands in
FETCH's (log entry 13). -/
def commandOf : Instr → Command
  | .alloc => .alloc
  | .release => .release
  | .loadBegin _ => .loadBegin
  | .loadByte _ => .loadByte
  | .loadEnd => .loadEnd
  | .loadAbort => .loadAbort
  | .fetch _ => .fetch
  | .loadb _ => .loadb
  | .storeb _ _ => .storeb
  | .reservedOp9 => .reserved
  | .reservedOp10 => .reserved
  | .reservedOp11 => .reserved
  | .reservedOp12 => .reserved
  | .reservedOp13 => .reserved
  | .reservedOp14 => .reserved
  | .reservedOp15 => .reserved
  | .insn _ _ _ => .fetch

/-- The cells of the protocol table marked "ok" (R101). -/
def Legal (c : Command) (l : Life) : Bool :=
  match c with
  | .alloc => decide (l = .unalloc ∨ l = .released)
  | .release => decide (l = .ready ∨ l = .loading)
  | .loadBegin => decide (l = .ready)
  | .loadByte => decide (l = .loading)
  | .loadEnd => decide (l = .loading)
  | .loadAbort => decide (l = .loading)
  | .fetch => decide (l = .ready)
  | .loadb => decide (l = .ready)
  | .storeb => decide (l = .ready)
  | .reserved => false

/-- The storage holds exactly the addresses `[0, MAX_RAM)` (R19), in the model's canonical form. -/
def StorageOk (c : Config) (m : Memory) : Prop := m.wf = true ∧ m.within c.maxRam = true

/-- While a session is open: `MAX_STACK + lcnt <= MAX_RAM`, `mem[a] = snap[a]` outside
`[MAX_STACK, MAX_STACK + lcnt)` (R24), and `snap` is storage (R22). -/
def SessionOk (s : State) : Prop :=
  s.cfg.maxStack + s.lcnt ≤ s.cfg.maxRam ∧ StorageOk s.cfg s.snap ∧
    ∀ a, (a < s.cfg.maxStack ∨ s.cfg.maxStack + s.lcnt ≤ a) → s.mem.read a = s.snap.read a

/-- The invariant: "every claim about a run takes 'no protocol fault recorded' as a premise" (R102); under it
the parameters meet their constraints (R7 to R10), `mem` is storage (R19), and an open session keeps R24. -/
def Inv (s : State) : Prop :=
  s.faulted = none → s.cfg.Valid ∧ StorageOk s.cfg s.mem ∧ (s.life = .loading → SessionOk s)

/-- Whether an instruction, served from a state, writes the byte at `a`: `ALLOC`, `LOAD_BYTE`, `LOAD_ABORT` and
`STOREB` are the only writers (R35, R45). -/
def writesAt (i : Instr) (s : State) (a : Nat) : Bool :=
  match i with
  | .alloc => s.allocOk
  | .release => false
  | .loadBegin _ => false
  | .loadByte _ => !loadOverflows s && decide (a = s.loadAddr)
  | .loadEnd => false
  | .loadAbort => decide (s.cfg.maxStack ≤ a) && decide (a < s.cfg.maxStack + s.lcnt)
  | .fetch _ => false
  | .loadb _ => false
  | .storeb b _ => dataInRange s.cfg b && decide (a = b)
  | .reservedOp9 => false
  | .reservedOp10 => false
  | .reservedOp11 => false
  | .reservedOp12 => false
  | .reservedOp13 => false
  | .reservedOp14 => false
  | .reservedOp15 => false
  | .insn _ _ _ => false

/-- `n` steps, one request each (R51), stopping where a step stops. -/
def stepN : Nat → State → Host.Outcome State Fault Refusal
  | 0, s => .next s
  | n + 1, s =>
    match step s with
    | .next t => stepN n t
    | .fault r => .fault r
    | .refused r => .refused r

/-- Instructions performed one after the other (R51), from a state to a state. -/
def Runs : List Instr → State → State → Prop
  | [], s, u => u = s
  | i :: is, s, u => ∃ t, exec i s = .next t ∧ Runs is t u

/-- The same, none of them writing the byte at `a`. -/
def RunsWithoutWriting (a : Nat) : List Instr → State → State → Prop
  | [], s, u => u = s
  | i :: is, s, u => writesAt i s a = false ∧ ∃ t, exec i s = .next t ∧ RunsWithoutWriting a is t u

end Sys2Proof.Machine
end

