-- ==== Sys2Proof/Certificates/Slice0/Obligations.lean ====
section
/-! DEFINITION. The statements for the provers. A statement about a next state takes "no protocol fault recorded" in that
state as a premise where the spec does (R102). -/

open Sys2Proof Sys2Proof.Machine

/-! ## Encoding and decoding -/

/-- Decoding the encoding of a well-formed instruction gives it back (R52, R53, R55, R60): no operand bit of a
command, of a bus or of a three-byte instruction is dropped. -/
def Obligations.DecodeOfEncode : Prop :=
  ∀ (c : Config) (i : Instr), c.Valid → i.wellFormed c = true → decode c (encode c i) = .ok i

/-- What the request decoder puts out always fits the ports (R9, R10, R53). -/
def Obligations.DecodedRequestIsWellFormed : Prop :=
  ∀ (c : Config) (r : Request), c.Valid → (decodeRequest c r).wellFormed c = true

/-- "Fields a command does not read (rule R55) are ignored: their values have no effect on state or response"
(R56): two requests with the same `op` that agree on the fields it reads step alike. -/
def Obligations.UnreadRequestFieldsAreIgnored : Prop :=
  ∀ (s : State) (r r' : Request) (rs : List Request),
    reqOp r.req = reqOp r'.req →
    (reqOp r.req = 2 → reqV r.req = reqV r'.req) →
    (reqOp r.req = 3 ∨ reqOp r.req = 8 → reqD r.req = reqD r'.req) →
    (reqOp r.req = 6 → r.fa = r'.fa) →
    (reqOp r.req = 7 ∨ reqOp r.req = 8 → r.da = r'.da) →
    step { s with reqs := r :: rs } = step { s with reqs := r' :: rs }

/-- The integers the two address buses present (R53, R84): `fa` is two's complement, `da` is never
sign-extended. -/
def Obligations.AddressBusesPresentTheirIntegers : Prop :=
  ∀ (c : Config) (r : Request), 1 ≤ c.fetchAw → r.fa < 2 ^ c.fetchAw → r.da < 2 ^ c.lsAw →
    (reqOp r.req = 6 → decodeRequest c r =
      .fetch (if r.fa < 2 ^ (c.fetchAw - 1) then (r.fa : Int) else (r.fa : Int) - 2 ^ c.fetchAw)) ∧
    (reqOp r.req = 7 → decodeRequest c r = .loadb r.da) ∧
    (reqOp r.req = 8 → decodeRequest c r = .storeb r.da (reqD r.req))

/-- "Every one of the 2^24 three-byte patterns decodes" (R62), with the packing of R60. -/
def Obligations.EveryInstructionPatternDecodes : Prop :=
  ∀ o a b : Byte, decodeTableWord 24 (o.toNat * 2 ^ 16 + a.toNat * 2 ^ 8 + b.toNat) = some (.insn o a b)

/-- A few words of the spec's vectors E2, E6, E8, E12, E14, E16 and of the packed word `0xFF807F` decode to the
commands and the instruction it names. The address operands 0 of `FETCH` and `STOREB` are not the vectors' (which
put the address on `fa` and `da`) but those of the zero buses under which the model reads the table (log entry
10, DESIGN CHOICE). -/
def Obligations.ExampleWordsDecode : Prop :=
  decodeTableWord 16 0x00FF = some .alloc ∧ decodeTableWord 16 0x05C3 = some (.loadBegin true) ∧
    decodeTableWord 16 0x07FF = some (.loadByte 0xFF) ∧ decodeTableWord 16 0x0D23 = some (.fetch 0) ∧
    decodeTableWord 16 0x1099 = some (.storeb 0 0x99) ∧ decodeTableWord 16 0x1FFF = some .reservedOp15 ∧
    decodeTableWord 24 0xFF807F = some (.insn 0xFF 0x80 0x7F)

/-! ## Steps -/

/-- A step takes the request on the port, decodes it and performs the instruction (R51, R55). -/
def Obligations.StepRunsTheDecodedRequest : Prop :=
  ∀ (s : State) (r : Request) (rs : List Request), s.reqs = r :: rs →
    step s = exec (decodeRequest s.cfg r) { s with reqs := rs }

/-- With no request on the port the block does nothing: it "never initiates a transaction" (R51, R119; the idle
step itself is the model's, log entry 2). -/
def Obligations.NoRequestNoChange : Prop :=
  ∀ s : State, s.reqs = [] → s.faulted = none → step s = .next s

/-- A fetch in range is the decoder's instruction: the three bytes at `pos` decode to an instruction, and
`FETCH` does what that instruction does on the decoder (R80, R81). That `INSN` has a meaning of its own, and
FETCH's protocol row in every `life`, is the model's (log entry 13, DEDUCED). -/
def Obligations.FetchRunsTheDecodedInstruction : Prop :=
  ∀ (s : State) (pos : Int), 0 ≤ pos → pos + 2 < s.cfg.maxRam →
    ∃ i, decodeInsn [s.mem.read pos.toNat, s.mem.read (pos.toNat + 1), s.mem.read (pos.toNat + 2)] =
        .ok (i, []) ∧ exec (.fetch pos) s = exec i s

/-- A request word of the opcode table, placed on the port, is what the next step performs (R52, R55). The
placement `withFetchWord` is the model's (log entry 12, DESIGN CHOICE), as are the zero buses under which
`decodeTableWord` reads the word (log entry 10, DESIGN CHOICE). -/
def Obligations.PlacedRequestWordIsPerformed : Prop :=
  ∀ (s : State) (w : Nat) (i : Instr), decodeTableWord 16 w = some i →
    step (s.withFetchWord 16 w) = exec i { s with reqs := s.reqs.tail }

/-- The three bytes of an instruction, placed in storage, are fetched by the next step, opcode from the lowest
address (R37, R60, R80). The placement is the model's (log entry 12). -/
def Obligations.PlacedInstructionIsFetched : Prop :=
  ∀ (s : State) (o a b : Byte), s.cfg.Valid → 3 ≤ s.cfg.maxRam → s.faulted = none →
    ∃ t, step (s.withFetchWord 24 (o.toNat * 2 ^ 16 + a.toNat * 2 ^ 8 + b.toNat)) = .next t ∧
      t.resp = some { status := .ok, data := [o, a, b] } ∧ t.faulted = none

/-- "every request gets its response after finitely many steps; the block never blocks" (R125): one step takes
the request; a legal one gets its response, and only an illegal one none. -/
def Obligations.EveryRequestIsAnsweredInOneStep : Prop :=
  ∀ (s : State) (r : Request) (rs : List Request), s.faulted = none → s.reqs = r :: rs →
    ∃ t, step s = .next t ∧ t.reqs = rs ∧
      (Legal (commandOf (decodeRequest s.cfg r)) s.life = true → t.faulted = none ∧ ∃ p, t.resp = some p)

/-! ## The protocol -/

/-- The protocol table (R101, R102), cell by cell: every cell not marked "ok" records the named reason, and in
every "ok" cell the request is answered with no fault recorded. (What the command's rule does in an "ok" cell is
stated command by command below.) That the recorded state keeps every other component and presents no response
is the model's (log entry 5, DESIGN CHOICE). -/
def Obligations.ProtocolTable : Prop :=
  ∀ s : State, s.faulted = none →
    ((s.life = .ready ∨ s.life = .loading) → exec .alloc s = .next (s.recordFault .allocWhileAllocated)) ∧
    ((s.life = .unalloc ∨ s.life = .released) → exec .release s = .next (s.recordFault .releaseNotAllocated)) ∧
    (∀ i : Instr, (∃ v, i = .loadBegin v) ∨ (∃ d, i = .loadByte d) ∨ i = .loadEnd ∨ i = .loadAbort ∨
        (∃ pos, i = .fetch pos) ∨ (∃ a, i = .loadb a) ∨ (∃ a d, i = .storeb a d) →
      (s.life = .unalloc → exec i s = .next (s.recordFault .useBeforeAlloc)) ∧
      (s.life = .released → exec i s = .next (s.recordFault .useAfterRelease))) ∧
    (s.life = .loading → ∀ v, exec (.loadBegin v) s = .next (s.recordFault .loadBeginNotReady)) ∧
    (s.life = .ready → ∀ d, exec (.loadByte d) s = .next (s.recordFault .loadByteOutsideSession)) ∧
    (s.life = .ready → exec .loadEnd s = .next (s.recordFault .loadEndOutsideSession)) ∧
    (s.life = .ready → exec .loadAbort s = .next (s.recordFault .loadAbortOutsideSession)) ∧
    (s.life = .loading → ∀ pos, exec (.fetch pos) s = .next (s.recordFault .fetchNotReady)) ∧
    (s.life = .loading → ∀ a, exec (.loadb a) s = .next (s.recordFault .dataNotReady)) ∧
    (s.life = .loading → ∀ a d, exec (.storeb a d) s = .next (s.recordFault .dataNotReady)) ∧
    (∀ i : Instr, commandOf i = .reserved → exec i s = .next (s.recordFault .reservedOp)) ∧
    (∀ i : Instr,
      ((i = .alloc ∧ (s.life = .unalloc ∨ s.life = .released)) ∨
        (i = .release ∧ (s.life = .ready ∨ s.life = .loading)) ∨
        (((∃ v, i = .loadBegin v) ∨ (∃ pos, i = .fetch pos) ∨ (∃ a, i = .loadb a) ∨ (∃ a d, i = .storeb a d)) ∧
          s.life = .ready) ∨
        (((∃ d, i = .loadByte d) ∨ i = .loadEnd ∨ i = .loadAbort) ∧ s.life = .loading)) →
      ∃ t p, exec i s = .next t ∧ t.faulted = none ∧ t.resp = some p)

/-- Each of the seven reserved `op`s records the protocol fault ReservedOp in every `life` (R55, R101). The
hardware's behaviour is undefined; that the recorded state presents no response and keeps the rest is the
model's (log entry 5, DESIGN CHOICE). -/
def Obligations.ReservedOpsRecordTheFault : Prop :=
  ∀ s : State, s.faulted = none →
    exec .reservedOp9 s = .next { s with faulted := some .reservedOp, resp := none } ∧
    exec .reservedOp10 s = .next { s with faulted := some .reservedOp, resp := none } ∧
    exec .reservedOp11 s = .next { s with faulted := some .reservedOp, resp := none } ∧
    exec .reservedOp12 s = .next { s with faulted := some .reservedOp, resp := none } ∧
    exec .reservedOp13 s = .next { s with faulted := some .reservedOp, resp := none } ∧
    exec .reservedOp14 s = .next { s with faulted := some .reservedOp, resp := none } ∧
    exec .reservedOp15 s = .next { s with faulted := some .reservedOp, resp := none }

/-- "the faulted state has no further step" (R102): no instruction and no step leaves it. -/
def Obligations.FaultedStateHasNoStep : Prop :=
  ∀ (s : State) (r : ProtocolFault), s.faulted = some r →
    (∀ i, exec i s = .fault (.protocolFault r)) ∧ step s = .fault (.protocolFault r)

/-- A step that gives a next state starts from a state with no protocol fault recorded, and records one exactly
when the request on the port is not legal (R101, R102). -/
def Obligations.FaultsAreExactlyTheIllegalRequests : Prop :=
  ∀ (s t : State) (r : Request) (rs : List Request), s.reqs = r :: rs → step s = .next t →
    s.faulted = none ∧ (t.faulted = none ↔ Legal (commandOf (decodeRequest s.cfg r)) s.life = true)

/-- From reset, under any parameters, `life` is `UNALLOC`, no fault is recorded and the configuration outputs
present the parameters (R32); the one legal command is `ALLOC` (R101). -/
def Obligations.ResetAdmitsOnlyAlloc : Prop :=
  ∀ c : Config, (State.resetWith c).life = .unalloc ∧ (State.resetWith c).faulted = none ∧
    (State.resetWith c).cfgMaxRam = c.maxRam ∧ (State.resetWith c).cfgMaxStack = c.maxStack ∧
    (∃ t, exec .alloc (State.resetWith c) = .next t ∧ t.faulted = none) ∧
    ∀ (i : Instr) (t : State), i ≠ .alloc → exec i (State.resetWith c) = .next t → t.faulted ≠ none

/-- "every request but `ALLOC` in state `RELEASED` has undefined hardware behaviour" (R90): it records a protocol
fault. -/
def Obligations.AfterReleaseOnlyAllocIsLegal : Prop :=
  ∀ (s t : State) (i : Instr), s.life = .released → exec i s = .next t → t.faulted = none → i = .alloc

/-! ## Allocation and release -/

/-- `ALLOC` where it is legal (R66, R67, R69), for either value of the draw: a zero-filled storage in `READY`, or
`AllocationError` with `life` and `mem` unchanged. Either way it takes exactly one draw: the next one of `draws`,
which is used up, or the free value where that list is empty; and the draw is counted (the form of the draw is the
model's, log entry 4, DESIGN CHOICE). -/
def Obligations.AllocByTheDraw : Prop :=
  ∀ s : State, s.faulted = none → (s.life = .unalloc ∨ s.life = .released) →
    (∀ (b : Bool) (ds : List Bool), s.draws = b :: ds → s.allocOk = b) ∧
    (s.draws = [] → s.allocOk = Config.freeAllocOk s.drawCount) ∧
    (s.allocOk = true → ∃ t, exec .alloc s = .next t ∧ t.life = .ready ∧ (∀ a, t.mem.read a = 0) ∧
      t.mem.wf = true ∧ t.resp = some { status := .ok, data := [] } ∧ t.faulted = none ∧
      t.draws = s.draws.tail ∧ t.drawCount = s.drawCount + 1) ∧
    (s.allocOk = false → ∃ t, exec .alloc s = .next t ∧ t.life = s.life ∧ t.mem = s.mem ∧
      t.resp = some { status := .allocationError, data := [] } ∧ t.faulted = none ∧
      t.draws = s.draws.tail ∧ t.drawCount = s.drawCount + 1)

/-- A retry after a failed `ALLOC` takes a draw of its own (R16, R66, vector A3): after a first draw that
failed, the second decides (the list of draws is the model's, log entry 4, DESIGN CHOICE). -/
def Obligations.RetriedAllocTakesTheNextDraw : Prop :=
  ∀ (s : State) (b : Bool) (ds : List Bool), s.faulted = none → (s.life = .unalloc ∨ s.life = .released) →
    s.draws = false :: b :: ds →
    ∃ t u, exec .alloc s = .next t ∧ t.resp = some { status := .allocationError, data := [] } ∧
      exec .alloc t = .next u ∧ u.faulted = none ∧ u.draws = ds ∧
      (b = true → u.life = .ready ∧ u.resp = some { status := .ok, data := [] } ∧ ∀ a, u.mem.read a = 0) ∧
      (b = false → u.life = s.life ∧ u.resp = some { status := .allocationError, data := [] })

/-- A failed `ALLOC` leaves `life` and zero-fills no part of `mem`, and then "every later request but `ALLOC` is a protocol fault" (R67). -/
def Obligations.FailedAllocLeavesNoStorage : Prop :=
  ∀ s t : State, exec .alloc s = .next t → t.resp = some { status := .allocationError, data := [] } →
    t.life = s.life ∧ (t.life = .unalloc ∨ t.life = .released) ∧ t.mem = s.mem ∧
      ∀ (i : Instr) (u : State), i ≠ .alloc → exec i t = .next u → u.faulted ≠ none

/-- "Right after a successful `ALLOC`, and until the first request that writes", every byte load in range gives 0
and every fetch in range three zeros (R68). -/
def Obligations.FreshStorageReadsZero : Prop :=
  ∀ (s t u : State) (is : List Instr), exec .alloc s = .next t → t.resp = some { status := .ok, data := [] } →
    Runs is t u → (∀ i ∈ is, (∀ d, i ≠ .loadByte d) ∧ (∀ a d, i ≠ .storeb a d)) →
    u.faulted = none → u.life = .ready →
    (∀ a : Nat, a < u.cfg.maxRam → exec (.loadb a) u = .next { u with resp := some { status := .ok, data := [0] } }) ∧
    (∀ pos : Int, 0 ≤ pos → pos + 2 < u.cfg.maxRam →
      exec (.fetch pos) u = .next { u with resp := some { status := .ok, data := [0, 0, 0] } })

/-- `RELEASE` where it is legal (R89), a load session open or not; nothing is said of the storage, which is
gone. (The draws are the model's own fields, log entry 4, DESIGN CHOICE.) -/
def Obligations.ReleaseEndsTheStorage : Prop :=
  ∀ s : State, s.faulted = none → (s.life = .ready ∨ s.life = .loading) →
    ∃ t, exec .release s = .next t ∧ t.life = .released ∧ t.resp = some { status := .ok, data := [] } ∧
      t.faulted = none ∧ t.cfg = s.cfg ∧ t.reqs = s.reqs ∧ t.draws = s.draws ∧ t.drawCount = s.drawCount

/-! ## Code load -/

/-- `LOAD_BEGIN v` in `READY` (R72). -/
def Obligations.LoadBeginOpensOrReports : Prop :=
  ∀ s : State, s.faulted = none → s.life = .ready →
    exec (.loadBegin true) s = .next { s with
      snap := s.mem, lcnt := 0, life := .loading, resp := some { status := .ok, data := [] } } ∧
    exec (.loadBegin false) s = .next { s with resp := some { status := .sourceUnavailableError, data := [] } }

/-- `LOAD_BYTE d` in a session (R73): below `MAX_RAM` the byte is written at `MAX_STACK + lcnt`, at or above it
the session closes with `CodeTooLargeError` and nothing is written. (That `lcnt` and `snap` keep their values in a
closed session is the model's, log entry 7, DESIGN CHOICE.) -/
def Obligations.LoadByteWritesOrOverflows : Prop :=
  ∀ (s : State) (d : Byte), s.faulted = none → s.life = .loading →
    (s.cfg.maxStack + s.lcnt < s.cfg.maxRam → exec (.loadByte d) s = .next { s with
      mem := s.mem.write (s.cfg.maxStack + s.lcnt) d, lcnt := s.lcnt + 1,
      resp := some { status := .ok, data := [] } }) ∧
    (s.cfg.maxRam ≤ s.cfg.maxStack + s.lcnt → exec (.loadByte d) s = .next { s with
      life := .ready, resp := some { status := .codeTooLargeError, data := [] } })

/-- `LOAD_END` in a session (R74). That `lcnt` and `snap`, which have no meaning in a closed session (R21, R22), keep
their values is the model's (log entry 7, DESIGN CHOICE). -/
def Obligations.LoadEndClosesTheSession : Prop :=
  ∀ s : State, s.faulted = none → s.life = .loading →
    exec .loadEnd s = .next { s with life := .ready, resp := some { status := .ok, data := [] } }

/-- `LOAD_ABORT` in a session (R75): the addresses of the session are written back from the snapshot, every
other address keeps its byte, and the session closes with `SourceUnavailableError`. -/
def Obligations.LoadAbortWritesBack : Prop :=
  ∀ s : State, s.faulted = none → s.life = .loading →
    ∃ t, exec .loadAbort s = .next t ∧ t.life = .ready ∧ t.faulted = none ∧
      t.resp = some { status := .sourceUnavailableError, data := [] } ∧
      ∀ a, t.mem.read a =
        if s.cfg.maxStack ≤ a ∧ a < s.cfg.maxStack + s.lcnt then s.snap.read a else s.mem.read a

/-- "after the restore, `mem` equals its value at `LOAD_BEGIN` (10_state.md rule R24)" (R75). -/
def Obligations.LoadAbortRestoresTheStorage : Prop :=
  ∀ s t : State, Inv s → s.life = .loading → exec .loadAbort s = .next t → t.mem = s.snap

/-- "Code load writes only inside the code region", and `LOAD_ABORT` only addresses the session wrote (R76). -/
def Obligations.CodeLoadWritesOnlyTheCodeRegion : Prop :=
  ∀ (s t : State) (i : Instr) (a : Nat), Inv s →
    (∃ v, i = .loadBegin v) ∨ (∃ d, i = .loadByte d) ∨ i = .loadEnd ∨ i = .loadAbort →
    exec i s = .next t → t.faulted = none →
    (a < s.cfg.maxStack ∨ s.cfg.maxRam ≤ a → t.mem.read a = s.mem.read a) ∧
    (i = .loadAbort → a < s.cfg.maxStack ∨ s.cfg.maxStack + s.lcnt ≤ a → t.mem.read a = s.mem.read a)

/-- A session opens by `LOAD_BEGIN 1` from `READY` only, closes in exactly the four ways of R71, and while it is
open the other commands are protocol faults. -/
def Obligations.SessionOpensAndCloses : Prop :=
  ∀ (s t : State) (i : Instr), exec i s = .next t → t.faulted = none →
    (s.life ≠ .loading → (t.life = .loading ↔ s.life = .ready ∧ i = .loadBegin true)) ∧
    (s.life = .loading →
      (t.life ≠ .loading ↔ i = .loadEnd ∨ i = .loadAbort ∨ i = .release ∨
        ((∃ d, i = .loadByte d) ∧ s.cfg.maxRam ≤ s.cfg.maxStack + s.lcnt)) ∧
      i ≠ .alloc ∧ (∀ v, i ≠ .loadBegin v) ∧ (∀ pos, i ≠ .fetch pos) ∧ (∀ a, i ≠ .loadb a) ∧
        ∀ a d, i ≠ .storeb a d)

/-- The whole-session effect `LoadCode(m, src)` (R77): the host's requests for a source, performed one step each
from `READY`, end in `READY` with the storage and status R77 gives, every other request still waiting. R77 gives
`FailedAfter` for a source that fits; what a longer one that fails does is the model's (log entry 16, DEDUCED). -/
def Obligations.WholeLoadSession : Prop :=
  ∀ (s : State) (src : Source) (rest : List Request), s.faulted = none → s.life = .ready →
    s.reqs = requestsOf s.cfg (src.commands s.cfg) ++ rest →
    ∃ t, stepN (src.commands s.cfg).length s = .next t ∧ t.life = .ready ∧ t.faulted = none ∧
      t.reqs = rest ∧ t.cfg = s.cfg ∧ t.resp = some { status := src.status s.cfg, data := [] } ∧
      ∀ a, t.mem.read a = src.byteAfter s.cfg s.mem a

/-! ## Fetch and decoder -/

/-- `FETCH pos` in range (R80). -/
def Obligations.FetchReturnsTheThreeBytes : Prop :=
  ∀ (s : State) (pos : Int), s.faulted = none → s.life = .ready → 0 ≤ pos → pos + 2 < s.cfg.maxRam →
    exec (.fetch pos) s = .next { s with resp := some { status := .ok, data :=
      [s.mem.read pos.toNat, s.mem.read (pos.toNat + 1), s.mem.read (pos.toNat + 2)] } }

/-- `FETCH pos` out of range (R80, R96): `MemoryOverflowError`, no Instruction, nothing else changed. -/
def Obligations.FetchOutOfRangeOverflows : Prop :=
  ∀ (s : State) (pos : Int), s.faulted = none → s.life = .ready → (pos < 0 ∨ (s.cfg.maxRam : Int) ≤ pos + 2) →
    exec (.fetch pos) s = .next { s with resp := some { status := .memoryOverflowError, data := [] } }

/-- "A fetch succeeds exactly when `0 <= pos <= MAX_RAM - 3` (and `life = READY`)" and then returns the three
bytes in order; otherwise in `READY` it fails with `MemoryOverflowError`. The regions do not matter (R82). -/
def Obligations.FetchSucceedsExactlyInRange : Prop :=
  ∀ (s : State) (pos : Int), s.faulted = none →
    ((∃ t d, exec (.fetch pos) s = .next t ∧ t.resp = some { status := .ok, data := d }) ↔
      s.life = .ready ∧ 0 ≤ pos ∧ pos ≤ (s.cfg.maxRam : Int) - 3) ∧
    (∀ t d, exec (.fetch pos) s = .next t → t.resp = some { status := .ok, data := d } →
      d = [s.mem.read pos.toNat, s.mem.read (pos + 1).toNat, s.mem.read (pos + 2).toNat]) ∧
    (s.life = .ready → (pos < 0 ∨ (s.cfg.maxRam : Int) ≤ pos + 2) →
      ∃ t, exec (.fetch pos) s = .next t ∧ t.resp = some { status := .memoryOverflowError, data := [] })

/-- The decoder's output (R81): three raw bytes and no other content; nothing is executed. -/
def Obligations.InstructionIsPutOutRaw : Prop :=
  ∀ (s : State) (o a b : Byte), s.faulted = none → s.life = .ready →
    exec (.insn o a b) s = .next { s with resp := some { status := .ok, data := [o, a, b] } }

/-! ## Byte load and store -/

/-- `LOADB a` in range (R85). -/
def Obligations.LoadbReturnsTheByte : Prop :=
  ∀ (s : State) (a : Nat), s.faulted = none → s.life = .ready → a < s.cfg.maxRam →
    exec (.loadb a) s = .next { s with resp := some { status := .ok, data := [s.mem.read a] } }

/-- `STOREB a, d` in range (R86): the next state differs in the byte at `a` and the response only. -/
def Obligations.StorebWritesTheByte : Prop :=
  ∀ (s : State) (a : Nat) (d : Byte), s.faulted = none → s.life = .ready → a < s.cfg.maxRam →
    ∃ t, exec (.storeb a d) s = .next t ∧ t.mem.read a = d ∧ (∀ b, b ≠ a → t.mem.read b = s.mem.read b) ∧
      t = { s with mem := t.mem, resp := some { status := .ok, data := [] } }

/-- `LOADB` and `STOREB` at or above `MAX_RAM` (R84, R97): `AddressOutOfRangeError`, nothing else changed. -/
def Obligations.DataAccessOutOfRange : Prop :=
  ∀ (s : State) (a : Nat) (d : Byte), s.faulted = none → s.life = .ready → s.cfg.maxRam ≤ a →
    exec (.loadb a) s = .next { s with resp := some { status := .addressOutOfRangeError, data := [] } } ∧
    exec (.storeb a d) s = .next { s with resp := some { status := .addressOutOfRangeError, data := [] } }

/-- The window of the data port (R87): a byte access request raises `AddressOutOfRangeError` exactly when the
address it presents is at least `MAX_RAM`, and so never where `2^LS_AW <= MAX_RAM`. (A bus number's upper bits
reach no wire: log entry 9, DESIGN CHOICE.) -/
def Obligations.DataPortWindow : Prop :=
  ∀ (s : State) (r : Request) (rs : List Request), s.faulted = none → s.life = .ready → s.reqs = r :: rs →
    reqOp r.req = 7 ∨ reqOp r.req = 8 →
    ∃ t p, step s = .next t ∧ t.resp = some p ∧
      (p.status = .addressOutOfRangeError ↔ s.cfg.maxRam ≤ r.da % 2 ^ s.cfg.lsAw) ∧
      (2 ^ s.cfg.lsAw ≤ s.cfg.maxRam → p.status = .ok)

/-- The round trip (R88): a byte stored is loaded back as long as no request between writes that address, and "A
`STOREB` changes no address other than `a`". -/
def Obligations.StoreThenLoadReturnsTheByte : Prop :=
  ∀ (s t u : State) (a : Nat) (v : Byte) (is : List Instr), a < s.cfg.maxRam →
    exec (.storeb a v) s = .next t → t.faulted = none →
    (∀ b, b ≠ a → t.mem.read b = s.mem.read b) ∧
    (RunsWithoutWriting a is t u → u.faulted = none → u.life = .ready →
      exec (.loadb a) u = .next { u with resp := some { status := .ok, data := [v] } })

/-- "a `STOREB` (or a code-load write) to an address is seen by every later `FETCH` that covers that address"
(R48), until another request writes it. -/
def Obligations.StoredByteIsFetched : Prop :=
  ∀ (s t u : State) (i : Instr) (a : Nat) (v : Byte) (is : List Instr) (pos : Int),
    (i = .storeb a v ∧ a < s.cfg.maxRam) ∨ (i = .loadByte v ∧ a = s.cfg.maxStack + s.lcnt ∧ a < s.cfg.maxRam) →
    exec i s = .next t → t.faulted = none → RunsWithoutWriting a is t u → u.faulted = none → u.life = .ready →
    0 ≤ pos → pos + 2 < u.cfg.maxRam → pos ≤ a → (a : Int) ≤ pos + 2 →
    ∃ w d, exec (.fetch pos) u = .next w ∧ w.resp = some { status := .ok, data := d } ∧
      d[((a : Int) - pos).toNat]? = some v

/-! ## Responses -/

/-- "Reads have no side effects": a `FETCH` or `LOADB` changes no state component (the response port apart), and
repeating it, with no write between, gives the same response (R43). -/
def Obligations.ReadsHaveNoSideEffects : Prop :=
  ∀ (s t : State) (i : Instr), ((∃ pos, i = .fetch pos) ∨ ∃ a, i = .loadb a) → exec i s = .next t →
    t.faulted = none → t = { s with resp := t.resp } ∧
      ∀ (is : List Instr) (u : State), (∀ a, RunsWithoutWriting a is t u) → u.faulted = none → u.life = .ready →
        ∃ w, exec i u = .next w ∧ w.resp = t.resp

/-- Which command raises which status, under the codes of R92; 6 and 7 are never produced. -/
def Obligations.StatusesOfTheCommands : Prop :=
  (Status.ok.code = 0 ∧ Status.allocationError.code = 1 ∧ Status.sourceUnavailableError.code = 2 ∧
    Status.codeTooLargeError.code = 3 ∧ Status.memoryOverflowError.code = 4 ∧
    Status.addressOutOfRangeError.code = 5) ∧
  ∀ (s t : State) (i : Instr) (p : Response), exec i s = .next t → t.resp = some p →
    (p.status.code = 1 → i = .alloc) ∧
    (p.status.code = 2 → i = .loadBegin false ∨ i = .loadAbort) ∧
    (p.status.code = 3 → ∃ d, i = .loadByte d) ∧
    (p.status.code = 4 → ∃ pos, i = .fetch pos) ∧
    (p.status.code = 5 → (∃ a, i = .loadb a) ∨ ∃ a d, i = .storeb a d) ∧
    p.status.code ≠ 6 ∧ p.status.code ≠ 7

/-- Only a successful `FETCH` (three bytes) and a successful `LOADB` (one byte) carry data (R54, R58); `INSN` is
the decoder half of `FETCH` (log entry 13). -/
def Obligations.OnlySuccessfulReadsCarryData : Prop :=
  ∀ (s t : State) (i : Instr) (p : Response), exec i s = .next t → t.resp = some p → p.data ≠ [] →
    p.status = .ok ∧
      ((∃ pos, i = .fetch pos ∧
          p.data = [s.mem.read pos.toNat, s.mem.read (pos.toNat + 1), s.mem.read (pos.toNat + 2)]) ∨
        (∃ a, i = .loadb a ∧ p.data = [s.mem.read a]) ∨
        ∃ o a b, i = .insn o a b ∧ p.data = [o, a, b])

/-- "Errors are precise" (R99): after an error response the state is the state before but for the response (and
the draw `ALLOC` took, log entry 4), except that `CodeTooLargeError` sets `life = READY`, and `LOAD_ABORT`
restores memory and sets `life = READY`. (That `lcnt` and `snap` keep their values when a session closes is the
model's, log entry 7, DESIGN CHOICE.) -/
def Obligations.ErrorsArePrecise : Prop :=
  ∀ (s t : State) (i : Instr) (p : Response), Inv s → exec i s = .next t → t.resp = some p → p.status ≠ .ok →
    (p.status = .codeTooLargeError → t = { s with life := .ready, resp := some p }) ∧
    (i = .loadAbort → t = { s with mem := s.snap, life := .ready, resp := some p }) ∧
    (p.status ≠ .codeTooLargeError → i ≠ .loadAbort →
      t = { s with resp := some p, draws := t.draws, drawCount := t.drawCount } ∧
        (i ≠ .alloc → t = { s with resp := some p }))

/-- "No later request can read an earlier request's status" (R27, R98): with a request on the port, whatever the
response port presents before, the steps that follow are the same, however many. -/
def Obligations.EarlierResponsesAreNotRead : Prop :=
  ∀ (s : State) (p : Option Response) (n : Nat), s.reqs ≠ [] →
    stepN (n + 1) { s with resp := p } = stepN (n + 1) s

/-! ## Frames -/

/-- Every address an instruction does not store to keeps its byte (R35, R45), for every instruction; the
addresses stored to are `ALLOC`'s whole storage, `LOAD_BYTE`'s and `STOREB`'s one address and `LOAD_ABORT`'s
session. (Where the next state has no storage, R20, what `mem` holds is the model's, log entry 6.) -/
def Obligations.StorageFrame : Prop :=
  ∀ (i : Instr) (s t : State) (a : Nat), exec i s = .next t → t.faulted = none → writesAt i s a = false →
    t.mem.read a = s.mem.read a

/-- Every other component keeps its value (R17, R28, R51) but where the instruction's rule writes it: `life` the
lifecycle and load commands, `lcnt` `LOAD_BEGIN 1` and `LOAD_BYTE`, `snap` `LOAD_BEGIN 1`, the draws `ALLOC`. That `lcnt` and `snap` are kept
where they have no meaning (through `LOAD_END`, `LOAD_ABORT`, `RELEASE` and `ALLOC`: R21, R22, S3) is the model's
(log entry 7, DESIGN CHOICE), and the draws are its own fields (log entry 4, DESIGN CHOICE). -/
def Obligations.ComponentFrame : Prop :=
  ∀ (i : Instr) (s t : State), exec i s = .next t → t.faulted = none →
    t.cfg = s.cfg ∧ t.reqs = s.reqs ∧
    (i ≠ .alloc → t.draws = s.draws ∧ t.drawCount = s.drawCount) ∧
    (i ≠ .loadBegin true → t.snap = s.snap) ∧
    (i ≠ .loadBegin true → (∀ d, i ≠ .loadByte d) → t.lcnt = s.lcnt) ∧
    ((∃ pos, i = .fetch pos) ∨ (∃ a, i = .loadb a) ∨ (∃ a d, i = .storeb a d) ∨ (∃ o a b, i = .insn o a b) ∨
      i = .loadBegin false → t.life = s.life)

/-- The configuration outputs "are not writable by any request" (R28): from reset on they present the parameters, and no step changes one. -/
def Obligations.ConfigurationIsConstant : Prop :=
  (∀ c : Config, (State.resetWith c).cfgMaxRam = c.maxRam ∧ (State.resetWith c).cfgMaxStack = c.maxStack) ∧
    ∀ s t : State, step s = .next t → t.cfg = s.cfg ∧ t.cfgMaxRam = s.cfgMaxRam ∧ t.cfgMaxStack = s.cfgMaxStack

/-- `lcnt` and `snap` have a meaning only while `life = LOADING` (R21, R22): outside a session, with any other
values of them, an instruction does the same, and a session that opens holds none of them. -/
def Obligations.SessionStateIsNotReadOutsideASession : Prop :=
  ∀ (i : Instr) (s t : State) (n : Nat) (m : Memory), s.life ≠ .loading → exec i s = .next t →
    ∃ u, exec i { s with lcnt := n, snap := m } = .next u ∧ { u with lcnt := t.lcnt, snap := t.snap } = t ∧
      (t.life = .loading → u = t)

/-- "In `UNALLOC` and `RELEASED` no request can observe" `mem` (R20, R69): with any other contents an instruction
does the same, and a storage newly allocated holds none of them. -/
def Obligations.ContentsAreNotReadWithoutStorage : Prop :=
  ∀ (i : Instr) (s t : State) (m : Memory), s.life = .unalloc ∨ s.life = .released → exec i s = .next t →
    ∃ u, exec i { s with mem := m } = .next u ∧ { u with mem := t.mem } = t ∧ (t.life = .ready → u = t)

/-! ## The end of a run -/

/-- "A run of the block ends in exactly one of these ways" (R121): after the step that performs a request, the run
has ended by release exactly if that was a legal `RELEASE` and no request follows, by a halt on an error exactly
if the response is that error and no request follows, and by a protocol fault exactly if the request was not
legal; it ended successfully in the first way only. (No request left in the list is a host that sends none: log
entry 17, DEDUCED. That a halt on an error, of which R121 says neither, is no successful end is the model's: log
entry 18, DESIGN CHOICE.) -/
def Obligations.RunEndsInOneOfThreeWays : Prop :=
  ∀ (s t : State) (r : Request) (rs : List Request), s.reqs = r :: rs → step s = .next t →
    (t.runEnd = some .released ↔
      rs = [] ∧ decodeRequest s.cfg r = .release ∧ (s.life = .ready ∨ s.life = .loading)) ∧
    (∀ e : Status, t.runEnd = some (.halted e) ↔ rs = [] ∧ e ≠ .ok ∧ t.resp = some { status := e, data := [] }) ∧
    ((∃ reason, t.runEnd = some (.protocolFault reason)) ↔
      Legal (commandOf (decodeRequest s.cfg r)) s.life = false) ∧
    ((∃ e, t.runEnd = some e ∧ e.successful = true) ↔
      rs = [] ∧ t.faulted = none ∧ decodeRequest s.cfg r = .release)

/-- Nothing happens after the end of a run (R102, R121): by a protocol fault, no step is left; otherwise no
request is, and a step changes nothing (the idle step is the model's, log entry 2; what counts as an end without a
request left, log entry 17, DEDUCED). -/
def Obligations.EndedRunChangesNothing : Prop :=
  ∀ (s : State) (e : RunEnd), s.runEnd = some e →
    (∀ reason, e = .protocolFault reason → step s = .fault (.protocolFault reason)) ∧
    ((∀ reason, e ≠ .protocolFault reason) → s.faulted = none ∧ step s = .next s)

/-! ## Invariants -/

/-- The state after reset meets the invariant, under all parameters that meet their constraints. -/
def Obligations.ResetMeetsTheInvariant : Prop :=
  Inv State.reset ∧ ∀ c : Config, c.Valid → Inv (State.resetWith c)

/-- Every step keeps the invariant (R19, R24), from every state that meets it. -/
def Obligations.StepKeepsTheInvariant : Prop :=
  ∀ s t : State, Inv s → step s = .next t → Inv t

/-- Every step keeps the canonical form of the storage, from every state. -/
def Obligations.StepKeepsStorageCanonical : Prop :=
  ∀ s t : State, s.mem.wf = true → step s = .next t → t.mem.wf = true
end

