-- ==== Sys2Proof/Laws/State.lean ====
section
/-! SUPPORT. What each named update does to each field of State, so that no later proof unfolds a record update. -/

namespace Sys2Proof.Machine

variable (s : State)

@[simp] theorem State.memWrite_cfg (a : Nat) (v : Byte) : (s.memWrite a v).cfg = s.cfg := rfl
@[simp] theorem State.memWrite_life (a : Nat) (v : Byte) : (s.memWrite a v).life = s.life := rfl
@[simp] theorem State.memWrite_mem (a : Nat) (v : Byte) : (s.memWrite a v).mem = s.mem.write a v := rfl
@[simp] theorem State.memWrite_lcnt (a : Nat) (v : Byte) : (s.memWrite a v).lcnt = s.lcnt := rfl
@[simp] theorem State.memWrite_snap (a : Nat) (v : Byte) : (s.memWrite a v).snap = s.snap := rfl
@[simp] theorem State.memWrite_faulted (a : Nat) (v : Byte) : (s.memWrite a v).faulted = s.faulted := rfl
@[simp] theorem State.memWrite_reqs (a : Nat) (v : Byte) : (s.memWrite a v).reqs = s.reqs := rfl
@[simp] theorem State.memWrite_resp (a : Nat) (v : Byte) : (s.memWrite a v).resp = s.resp := rfl
@[simp] theorem State.memWrite_draws (a : Nat) (v : Byte) : (s.memWrite a v).draws = s.draws := rfl
@[simp] theorem State.memWrite_drawCount (a : Nat) (v : Byte) : (s.memWrite a v).drawCount = s.drawCount := rfl

@[simp] theorem State.respond_cfg (st : Status) (d : List Byte) : (s.respond st d).cfg = s.cfg := rfl
@[simp] theorem State.respond_life (st : Status) (d : List Byte) : (s.respond st d).life = s.life := rfl
@[simp] theorem State.respond_mem (st : Status) (d : List Byte) : (s.respond st d).mem = s.mem := rfl
@[simp] theorem State.respond_lcnt (st : Status) (d : List Byte) : (s.respond st d).lcnt = s.lcnt := rfl
@[simp] theorem State.respond_snap (st : Status) (d : List Byte) : (s.respond st d).snap = s.snap := rfl
@[simp] theorem State.respond_faulted (st : Status) (d : List Byte) : (s.respond st d).faulted = s.faulted := rfl
@[simp] theorem State.respond_reqs (st : Status) (d : List Byte) : (s.respond st d).reqs = s.reqs := rfl
@[simp] theorem State.respond_resp (st : Status) (d : List Byte) : (s.respond st d).resp = some { status := st, data := d } := rfl
@[simp] theorem State.respond_draws (st : Status) (d : List Byte) : (s.respond st d).draws = s.draws := rfl
@[simp] theorem State.respond_drawCount (st : Status) (d : List Byte) : (s.respond st d).drawCount = s.drawCount := rfl

@[simp] theorem State.raise_cfg (e : Status) : (s.raise e).cfg = s.cfg := rfl
@[simp] theorem State.raise_life (e : Status) : (s.raise e).life = s.life := rfl
@[simp] theorem State.raise_mem (e : Status) : (s.raise e).mem = s.mem := rfl
@[simp] theorem State.raise_lcnt (e : Status) : (s.raise e).lcnt = s.lcnt := rfl
@[simp] theorem State.raise_snap (e : Status) : (s.raise e).snap = s.snap := rfl
@[simp] theorem State.raise_faulted (e : Status) : (s.raise e).faulted = s.faulted := rfl
@[simp] theorem State.raise_reqs (e : Status) : (s.raise e).reqs = s.reqs := rfl
@[simp] theorem State.raise_resp (e : Status) : (s.raise e).resp = some { status := e, data := [] } := rfl
@[simp] theorem State.raise_draws (e : Status) : (s.raise e).draws = s.draws := rfl
@[simp] theorem State.raise_drawCount (e : Status) : (s.raise e).drawCount = s.drawCount := rfl

@[simp] theorem State.recordFault_cfg (r : ProtocolFault) : (s.recordFault r).cfg = s.cfg := rfl
@[simp] theorem State.recordFault_life (r : ProtocolFault) : (s.recordFault r).life = s.life := rfl
@[simp] theorem State.recordFault_mem (r : ProtocolFault) : (s.recordFault r).mem = s.mem := rfl
@[simp] theorem State.recordFault_lcnt (r : ProtocolFault) : (s.recordFault r).lcnt = s.lcnt := rfl
@[simp] theorem State.recordFault_snap (r : ProtocolFault) : (s.recordFault r).snap = s.snap := rfl
@[simp] theorem State.recordFault_faulted (r : ProtocolFault) : (s.recordFault r).faulted = some r := rfl
@[simp] theorem State.recordFault_reqs (r : ProtocolFault) : (s.recordFault r).reqs = s.reqs := rfl
@[simp] theorem State.recordFault_resp (r : ProtocolFault) : (s.recordFault r).resp = none := rfl
@[simp] theorem State.recordFault_draws (r : ProtocolFault) : (s.recordFault r).draws = s.draws := rfl
@[simp] theorem State.recordFault_drawCount (r : ProtocolFault) : (s.recordFault r).drawCount = s.drawCount := rfl

@[simp] theorem State.decoderOutput_cfg (x y z : Byte) : (s.decoderOutput x y z).cfg = s.cfg := rfl
@[simp] theorem State.decoderOutput_life (x y z : Byte) : (s.decoderOutput x y z).life = s.life := rfl
@[simp] theorem State.decoderOutput_mem (x y z : Byte) : (s.decoderOutput x y z).mem = s.mem := rfl
@[simp] theorem State.decoderOutput_lcnt (x y z : Byte) : (s.decoderOutput x y z).lcnt = s.lcnt := rfl
@[simp] theorem State.decoderOutput_snap (x y z : Byte) : (s.decoderOutput x y z).snap = s.snap := rfl
@[simp] theorem State.decoderOutput_faulted (x y z : Byte) : (s.decoderOutput x y z).faulted = s.faulted := rfl
@[simp] theorem State.decoderOutput_reqs (x y z : Byte) : (s.decoderOutput x y z).reqs = s.reqs := rfl
@[simp] theorem State.decoderOutput_resp (x y z : Byte) : (s.decoderOutput x y z).resp = some { status := .ok, data := [x, y, z] } := rfl
@[simp] theorem State.decoderOutput_draws (x y z : Byte) : (s.decoderOutput x y z).draws = s.draws := rfl
@[simp] theorem State.decoderOutput_drawCount (x y z : Byte) : (s.decoderOutput x y z).drawCount = s.drawCount := rfl

@[simp] theorem State.afterDraw_cfg : s.afterDraw.cfg = s.cfg := rfl
@[simp] theorem State.afterDraw_life : s.afterDraw.life = s.life := rfl
@[simp] theorem State.afterDraw_mem : s.afterDraw.mem = s.mem := rfl
@[simp] theorem State.afterDraw_lcnt : s.afterDraw.lcnt = s.lcnt := rfl
@[simp] theorem State.afterDraw_snap : s.afterDraw.snap = s.snap := rfl
@[simp] theorem State.afterDraw_faulted : s.afterDraw.faulted = s.faulted := rfl
@[simp] theorem State.afterDraw_reqs : s.afterDraw.reqs = s.reqs := rfl
@[simp] theorem State.afterDraw_resp : s.afterDraw.resp = s.resp := rfl
@[simp] theorem State.afterDraw_draws : s.afterDraw.draws = s.draws.tail := rfl
@[simp] theorem State.afterDraw_drawCount : s.afterDraw.drawCount = s.drawCount + 1 := rfl

@[simp] theorem State.takeRequest_cfg : s.takeRequest.cfg = s.cfg := rfl
@[simp] theorem State.takeRequest_life : s.takeRequest.life = s.life := rfl
@[simp] theorem State.takeRequest_mem : s.takeRequest.mem = s.mem := rfl
@[simp] theorem State.takeRequest_lcnt : s.takeRequest.lcnt = s.lcnt := rfl
@[simp] theorem State.takeRequest_snap : s.takeRequest.snap = s.snap := rfl
@[simp] theorem State.takeRequest_faulted : s.takeRequest.faulted = s.faulted := rfl
@[simp] theorem State.takeRequest_reqs : s.takeRequest.reqs = s.reqs.tail := rfl
@[simp] theorem State.takeRequest_resp : s.takeRequest.resp = s.resp := rfl
@[simp] theorem State.takeRequest_draws : s.takeRequest.draws = s.draws := rfl
@[simp] theorem State.takeRequest_drawCount : s.takeRequest.drawCount = s.drawCount := rfl

@[simp] theorem State.present_cfg (q : Request) : (s.present q).cfg = s.cfg := rfl
@[simp] theorem State.present_life (q : Request) : (s.present q).life = s.life := rfl
@[simp] theorem State.present_mem (q : Request) : (s.present q).mem = s.mem := rfl
@[simp] theorem State.present_lcnt (q : Request) : (s.present q).lcnt = s.lcnt := rfl
@[simp] theorem State.present_snap (q : Request) : (s.present q).snap = s.snap := rfl
@[simp] theorem State.present_faulted (q : Request) : (s.present q).faulted = s.faulted := rfl
@[simp] theorem State.present_reqs (q : Request) : (s.present q).reqs = q :: s.reqs.tail := rfl
@[simp] theorem State.present_resp (q : Request) : (s.present q).resp = s.resp := rfl
@[simp] theorem State.present_draws (q : Request) : (s.present q).draws = s.draws := rfl
@[simp] theorem State.present_drawCount (q : Request) : (s.present q).drawCount = s.drawCount := rfl

@[simp] theorem State.resetWith_cfg (c : Config) : (State.resetWith c).cfg = c := rfl
@[simp] theorem State.resetWith_life (c : Config) : (State.resetWith c).life = .unalloc := rfl
@[simp] theorem State.resetWith_mem (c : Config) : (State.resetWith c).mem = [] := rfl
@[simp] theorem State.resetWith_lcnt (c : Config) : (State.resetWith c).lcnt = 0 := rfl
@[simp] theorem State.resetWith_snap (c : Config) : (State.resetWith c).snap = [] := rfl
@[simp] theorem State.resetWith_faulted (c : Config) : (State.resetWith c).faulted = none := rfl
@[simp] theorem State.resetWith_reqs (c : Config) : (State.resetWith c).reqs = [] := rfl
@[simp] theorem State.resetWith_resp (c : Config) : (State.resetWith c).resp = none := rfl
@[simp] theorem State.resetWith_draws (c : Config) : (State.resetWith c).draws = [] := rfl
@[simp] theorem State.resetWith_drawCount (c : Config) : (State.resetWith c).drawCount = 0 := rfl

@[simp] theorem State.memRead_eq (a : Nat) : s.memRead a = s.mem.read a := rfl
@[simp] theorem State.loadAddr_eq : s.loadAddr = s.cfg.maxStack + s.lcnt := rfl

end Sys2Proof.Machine
end

