-- ==== Sys2Proof/Laws/Memory.lean ====
section
/-! SUPPORT. The laws of storage: what a read gives after each operation, that each keeps the canonical form and the
bound, and that storage in canonical form is determined by its reads. -/

namespace Sys2Proof.Machine

/-! ## Reads -/

@[simp] theorem Memory.read_nil (a : Nat) : Memory.read [] a = 0 := rfl

@[simp] theorem Memory.read_zero (a : Nat) : Memory.zero.read a = 0 := rfl

theorem Memory.read_cons (b : Nat) (v : Byte) (t : Memory) (a : Nat) :
    Memory.read ((b, v) :: t) a = if b = a then v else Memory.read t a := rfl

theorem Memory.read_erase (m : Memory) (a b : Nat) :
    (m.erase a).read b = if b = a then 0 else m.read b := by
  induction m with
  | nil => simp [Memory.erase]
  | cons c t ih =>
    obtain ⟨k, v⟩ := c
    rw [Memory.erase] at ih ⊢
    by_cases hk : k = a
    · by_cases hb : b = a
      · simpa [List.filter_cons, hk, hb] using ih
      · have hab : ¬ a = b := fun h => hb h.symm
        simpa [List.filter_cons, hk, hb, hab, Memory.read_cons] using ih
    · by_cases hkb : k = b
      · have hb : ¬ b = a := fun h => hk (hkb.trans h)
        simp [hkb, hb, Memory.read_cons]
      · simpa [List.filter_cons, hk, hkb, Memory.read_cons] using ih

theorem Memory.read_insert_of_ne (m : Memory) (a b : Nat) (v : Byte) (h : b ≠ a) :
    (Memory.insert a v m).read b = m.read b := by
  have hab : ¬ a = b := fun e => h e.symm
  induction m with
  | nil => simp [Memory.insert, Memory.read_cons, hab]
  | cons c t ih =>
    obtain ⟨k, w⟩ := c
    by_cases hk : a < k
    · simp [Memory.insert, hk, Memory.read_cons, hab]
    · simp [Memory.insert, hk, Memory.read_cons, ih]

theorem Memory.read_insert_same (m : Memory) (a : Nat) (v : Byte) (h : ∀ c ∈ m, c.1 ≠ a) :
    (Memory.insert a v m).read a = v := by
  induction m with
  | nil => simp [Memory.insert, Memory.read_cons]
  | cons c t ih =>
    obtain ⟨k, w⟩ := c
    have hk : k ≠ a := h (k, w) (by simp)
    by_cases hlt : a < k
    · simp [Memory.insert, hlt, Memory.read_cons]
    · simpa [Memory.insert, hlt, Memory.read_cons, hk] using ih (fun c hc => h c (by simp [hc]))

theorem Memory.erase_unlists (m : Memory) (a : Nat) : ∀ c ∈ m.erase a, c.1 ≠ a := by
  intro c hc
  simpa using (List.mem_filter.1 hc).2

/-- A read after a write: the byte written at its own address, the byte before at every other. -/
theorem Memory.read_write (m : Memory) (a b : Nat) (v : Byte) :
    (m.write a v).read b = if b = a then v else m.read b := by
  unfold Memory.write
  by_cases hv : v = 0
  · rw [if_pos hv, Memory.read_erase, hv]
  · rw [if_neg hv]
    by_cases hb : b = a
    · subst hb
      rw [if_pos rfl, Memory.read_insert_same _ _ _ (Memory.erase_unlists m b)]
    · rw [if_neg hb, Memory.read_insert_of_ne _ _ _ _ hb, Memory.read_erase, if_neg hb]

@[simp] theorem Memory.read_write_same (m : Memory) (a : Nat) (v : Byte) : (m.write a v).read a = v := by
  simp [Memory.read_write]

theorem Memory.read_write_other (m : Memory) (a b : Nat) (v : Byte) (h : b ≠ a) :
    (m.write a v).read b = m.read b := by
  simp [Memory.read_write, h]

/-- After `LOAD_ABORT`'s loop the addresses of the loop read as in the snapshot, every other as before. -/
theorem Memory.read_restore (m snap : Memory) (base n a : Nat) :
    (m.restore snap base n).read a = if base ≤ a ∧ a < base + n then snap.read a else m.read a := by
  induction n with
  | zero =>
    have h : ¬ (base ≤ a ∧ a < base + 0) := by omega
    rw [if_neg h, Memory.restore]
  | succ n ih =>
    rw [Memory.restore, Memory.read_write, ih]
    by_cases h : a = base + n
    · subst h; simp
    · by_cases h1 : base ≤ a ∧ a < base + n
      · have h2 : base ≤ a ∧ a < base + (n + 1) := by omega
        rw [if_neg h, if_pos h1, if_pos h2]
      · have h2 : ¬ (base ≤ a ∧ a < base + (n + 1)) := by omega
        rw [if_neg h, if_neg h1, if_neg h2]

/-! ## The canonical form -/

/-- The lower bound a canonical tail must keep. -/
abbrev Memory.Above (lo : Option Nat) (a : Nat) : Prop := ∀ b ∈ lo, b < a

theorem Memory.wfAbove_cons (lo : Option Nat) (b : Nat) (v : Byte) (t : Memory) :
    Memory.wfAbove lo ((b, v) :: t) = true ↔
      Memory.Above lo b ∧ v ≠ 0 ∧ Memory.wfAbove (some b) t = true := by
  cases lo <;> simp [Memory.wfAbove, Memory.Above]

theorem Memory.Above.trans {lo : Option Nat} {a b : Nat} (h : Memory.Above lo a) (hab : a < b) :
    Memory.Above lo b := fun c hc => (h c hc).trans hab

theorem Memory.wfAbove_lower {lo lo' : Option Nat} {m : Memory}
    (hl : ∀ a, Memory.Above lo a → Memory.Above lo' a) (h : m.wfAbove lo = true) :
    m.wfAbove lo' = true := by
  cases m with
  | nil => cases lo' <;> rfl
  | cons c t =>
    obtain ⟨b, v⟩ := c
    rw [Memory.wfAbove_cons] at h ⊢
    exact ⟨hl b h.1, h.2⟩

theorem Memory.wfAbove_erase (m : Memory) (a : Nat) :
    ∀ lo, m.wfAbove lo = true → (m.erase a).wfAbove lo = true := by
  induction m with
  | nil => intro lo _; cases lo <;> rfl
  | cons c t ih =>
    intro lo h
    obtain ⟨b, v⟩ := c
    rw [Memory.wfAbove_cons] at h
    by_cases hb : b = a
    · have h2 : (Memory.erase ((b, v) :: t) a) = Memory.erase t a := by
        simp [Memory.erase, hb]
      rw [h2]
      exact Memory.wfAbove_lower (fun k hk => h.1.trans (hk b rfl)) (ih (some b) h.2.2)
    · have h2 : (Memory.erase ((b, v) :: t) a) = (b, v) :: Memory.erase t a := by
        simp [Memory.erase, hb]
      rw [h2, Memory.wfAbove_cons]
      exact ⟨h.1, h.2.1, ih (some b) h.2.2⟩

theorem Memory.wfAbove_insert (m : Memory) (a : Nat) (v : Byte) (hv : v ≠ 0) :
    ∀ lo, Memory.Above lo a → (∀ c ∈ m, c.1 ≠ a) → m.wfAbove lo = true →
      (Memory.insert a v m).wfAbove lo = true := by
  induction m with
  | nil =>
    intro lo hlo _ _
    rw [Memory.insert, Memory.wfAbove_cons]
    exact ⟨hlo, hv, rfl⟩
  | cons c t ih =>
    intro lo hlo hne h
    obtain ⟨b, w⟩ := c
    rw [Memory.wfAbove_cons] at h
    by_cases hab : a < b
    · rw [Memory.insert, if_pos hab, Memory.wfAbove_cons, Memory.wfAbove_cons]
      refine ⟨hlo, hv, ?_, h.2⟩
      intro k hk
      cases hk
      exact hab
    · rw [Memory.insert, if_neg hab, Memory.wfAbove_cons]
      have hba : b ≠ a := hne (b, w) (by simp)
      refine ⟨h.1, h.2.1, ih (some b) ?_ (fun c hc => hne c (by simp [hc])) h.2.2⟩
      intro k hk
      cases hk
      omega

/-- A write keeps the canonical form. -/
theorem Memory.wf_write (m : Memory) (a : Nat) (v : Byte) (h : m.wf = true) : (m.write a v).wf = true := by
  have he := Memory.wfAbove_erase m a none h
  unfold Memory.write Memory.wf
  by_cases hv : v = 0
  · rwa [if_pos hv]
  · rw [if_neg hv]
    exact Memory.wfAbove_insert _ a v hv none (by simp [Memory.Above]) (Memory.erase_unlists m a) he

theorem Memory.wf_zero : Memory.zero.wf = true := rfl

theorem Memory.wf_restore (m snap : Memory) (base n : Nat) (h : m.wf = true) :
    (m.restore snap base n).wf = true := by
  induction n with
  | zero => exact h
  | succ n ih => exact Memory.wf_write _ _ _ ih

theorem Memory.wf_place (bs : List Byte) : ∀ (m : Memory) (a : Nat), m.wf = true → (m.place a bs).wf = true := by
  induction bs with
  | nil => intro m a h; exact h
  | cons b t ih => intro m a h; exact ih _ _ (Memory.wf_write m a b h)

/-- Storage right after reset is in canonical form. -/
theorem State.reset_mem_wf : State.reset.mem.wf = true := rfl

/-! ## The bound -/

theorem Memory.within_iff (m : Memory) (n : Nat) : m.within n = true ↔ ∀ c ∈ m, c.1 < n := by
  simp [Memory.within]

theorem Memory.mem_insert (m : Memory) (a : Nat) (v : Byte) (c : Host.Cell) :
    c ∈ Memory.insert a v m ↔ c = (a, v) ∨ c ∈ m := by
  induction m with
  | nil => simp [Memory.insert]
  | cons d t ih =>
    obtain ⟨b, w⟩ := d
    by_cases h : a < b
    · simp [Memory.insert, h]
    · simp only [Memory.insert, h, if_false, List.mem_cons, ih]
      tauto

/-- A write below `n` keeps the bound `n`. -/
theorem Memory.within_write (m : Memory) (a n : Nat) (v : Byte) (ha : a < n) (h : m.within n = true) :
    (m.write a v).within n = true := by
  rw [Memory.within_iff] at h ⊢
  intro c hc
  have hsub : ∀ c ∈ m.erase a, c.1 < n := fun c hc => h c (List.mem_filter.1 hc).1
  unfold Memory.write at hc
  by_cases hv : v = 0
  · rw [if_pos hv] at hc
    exact hsub c hc
  · rw [if_neg hv, Memory.mem_insert] at hc
    rcases hc with rfl | hc
    · exact ha
    · exact hsub c hc

theorem Memory.within_restore (m snap : Memory) (base k n : Nat) (hk : base + k ≤ n)
    (h : m.within n = true) : (m.restore snap base k).within n = true := by
  induction k with
  | zero => exact h
  | succ k ih => exact Memory.within_write _ _ _ _ (by omega) (ih (by omega))

/-! ## Canonical storage is its reads -/

theorem Memory.read_of_wfAbove (m : Memory) :
    ∀ (lo a : Nat), m.wfAbove (some lo) = true → a ≤ lo → m.read a = 0 := by
  induction m with
  | nil => intro lo a _ _; rfl
  | cons c t ih =>
    intro lo a h ha
    obtain ⟨b, v⟩ := c
    rw [Memory.wfAbove_cons] at h
    have hb : lo < b := h.1 lo rfl
    rw [Memory.read_cons, if_neg (by omega)]
    exact ih b a h.2.2 (by omega)

theorem Memory.ext_of_wfAbove (m : Memory) :
    ∀ (n : Memory) (lo : Option Nat), m.wfAbove lo = true → n.wfAbove lo = true →
      (∀ a, m.read a = n.read a) → m = n := by
  induction m with
  | nil =>
    intro n lo _ hn h
    cases n with
    | nil => rfl
    | cons c t =>
      obtain ⟨b, v⟩ := c
      rw [Memory.wfAbove_cons] at hn
      have := h b
      rw [Memory.read_nil, Memory.read_cons, if_pos rfl] at this
      exact absurd this.symm hn.2.1
  | cons c t ih =>
    intro n lo hm hn h
    obtain ⟨b, v⟩ := c
    rw [Memory.wfAbove_cons] at hm
    cases n with
    | nil =>
      have := h b
      rw [Memory.read_nil, Memory.read_cons, if_pos rfl] at this
      exact absurd this hm.2.1
    | cons d u =>
      obtain ⟨k, w⟩ := d
      rw [Memory.wfAbove_cons] at hn
      have hbk : b = k := by
        rcases Nat.lt_trichotomy b k with hlt | heq | hgt
        · have := h b
          rw [Memory.read_cons, if_pos rfl, Memory.read_cons, if_neg (by omega),
            Memory.read_of_wfAbove u k b hn.2.2 (by omega)] at this
          exact absurd this hm.2.1
        · exact heq
        · have := h k
          rw [Memory.read_cons, if_neg (by omega), Memory.read_of_wfAbove t b k hm.2.2 (by omega),
            Memory.read_cons, if_pos rfl] at this
          exact absurd this.symm hn.2.1
      subst hbk
      have hvw : v = w := by
        have := h b
        simpa [Memory.read_cons] using this
      subst hvw
      have htu : t = u := by
        refine ih u (some b) hm.2.2 hn.2.2 (fun a => ?_)
        by_cases ha : a ≤ b
        · rw [Memory.read_of_wfAbove t b a hm.2.2 ha, Memory.read_of_wfAbove u b a hn.2.2 ha]
        · have := h a
          rwa [Memory.read_cons, if_neg (by omega), Memory.read_cons, if_neg (by omega)] at this
      rw [htu]

/-- Two storages in canonical form with the same reads are the same data. -/
theorem Memory.ext_of_wf {m n : Memory} (hm : m.wf = true) (hn : n.wf = true)
    (h : ∀ a, m.read a = n.read a) : m = n :=
  Memory.ext_of_wfAbove m n none hm hn h

/-- Beyond the bound nothing is listed. -/
theorem Memory.read_of_within {m : Memory} {n a : Nat} (h : m.within n = true) (ha : n ≤ a) :
    m.read a = 0 := by
  rw [Memory.within_iff] at h
  induction m with
  | nil => rfl
  | cons c t ih =>
    obtain ⟨b, v⟩ := c
    have hb : b < n := h (b, v) (by simp)
    rw [Memory.read_cons, if_neg (by omega)]
    exact ih (fun c hc => h c (by simp [hc]))

end Sys2Proof.Machine
end

