-- ==== Sys2Proof/Laws/Ops.lean ====
section
/-! SUPPORT. What each shared operation can do, said once: the protocol check, serving a command, and every
instruction as a served command. -/

namespace Sys2Proof.Machine

/-! ## The operand checks -/

theorem fetchOverflows_iff (c : Config) (pos : Int) :
    fetchOverflows c pos = true ↔ pos < 0 ∨ (c.maxRam : Int) ≤ pos + 2 := by
  simp [fetchOverflows]

theorem dataInRange_iff (c : Config) (a : Nat) : dataInRange c a = true ↔ a < c.maxRam := by
  simp [dataInRange]

theorem loadOverflows_iff (s : State) : loadOverflows s = true ↔ s.cfg.maxRam ≤ s.cfg.maxStack + s.lcnt :=
  decide_eq_true_iff

/-! ## Serving a command -/

/-- The protocol check passes exactly in the cells marked "ok" (R101). -/
theorem protocolCheck_eq_none_iff (c : Command) (l : Life) : protocolCheck c l = none ↔ Legal c l = true := by
  cases c <;> cases l <;> simp [protocolCheck, Legal]

theorem protocolCheck_of_not_legal {c : Command} {l : Life} (h : Legal c l = false) :
    ∃ r, protocolCheck c l = some r := by
  cases hc : protocolCheck c l with
  | some r => exact ⟨r, rfl⟩
  | none => simp [(protocolCheck_eq_none_iff c l).1 hc] at h

/-- A faulted state has no further step. -/
theorem State.serve_faulted {s : State} {c : Command} {f : State → State} {r : ProtocolFault}
    (h : s.faulted = some r) : s.serve c f = .fault (.protocolFault r) := by
  simp [State.serve, h]

/-- A legal request gets its command's own effect. -/
theorem State.serve_legal {s : State} {c : Command} {f : State → State} (h : s.faulted = none)
    (hl : Legal c s.life = true) : s.serve c f = .next (f s) := by
  simp [State.serve, h, (protocolCheck_eq_none_iff c s.life).2 hl]

/-- An illegal request records the protocol fault of its cell. -/
theorem State.serve_illegal {s : State} {c : Command} {f : State → State} {r : ProtocolFault}
    (h : s.faulted = none) (hr : protocolCheck c s.life = some r) : s.serve c f = .next (s.recordFault r) := by
  simp [State.serve, h, hr]

/-- All that serving a command can do, where it gives a next state. -/
theorem State.serve_next {s t : State} {c : Command} {f : State → State} (h : s.serve c f = .next t) :
    s.faulted = none ∧
      ((Legal c s.life = true ∧ t = f s) ∨
        (Legal c s.life = false ∧ ∃ r, protocolCheck c s.life = some r ∧ t = s.recordFault r)) := by
  cases hf : s.faulted with
  | some r =>
    rw [State.serve_faulted hf] at h
    cases h
  | none =>
    refine ⟨rfl, ?_⟩
    cases hl : Legal c s.life with
    | true =>
      rw [State.serve_legal hf hl] at h
      cases h
      exact .inl ⟨rfl, rfl⟩
    | false =>
      obtain ⟨r, hr⟩ := protocolCheck_of_not_legal hl
      rw [State.serve_illegal hf hr] at h
      cases h
      exact .inr ⟨rfl, r, hr, rfl⟩

/-- The effect of an instruction that is legal, as its meaning gives it. -/
def ruleOf : Instr → State → State
  | .alloc => fun s =>
    if s.allocOk then { s.afterDraw with mem := Memory.zero, life := .ready }.respond .ok []
    else s.afterDraw.raise .allocationError
  | .release => fun s => { s with life := .released }.respond .ok []
  | .loadBegin v => fun s =>
    if v then { s with snap := s.mem, lcnt := 0, life := .loading }.respond .ok []
    else s.raise .sourceUnavailableError
  | .loadByte d => fun s =>
    if loadOverflows s then { s with life := .ready }.raise .codeTooLargeError
    else { s.memWrite s.loadAddr d with lcnt := s.lcnt + 1 }.respond .ok []
  | .loadEnd => fun s => { s with life := .ready }.respond .ok []
  | .loadAbort => fun s =>
    { s with mem := s.mem.restore s.snap s.cfg.maxStack s.lcnt, life := .ready }.raise .sourceUnavailableError
  | .fetch pos => fun s =>
    if fetchOverflows s.cfg pos then s.raise .memoryOverflowError
    else s.decoderOutput (s.memRead pos.toNat) (s.memRead (pos.toNat + 1)) (s.memRead (pos.toNat + 2))
  | .loadb a => fun s =>
    if dataInRange s.cfg a then s.respond .ok [s.memRead a] else s.raise .addressOutOfRangeError
  | .storeb a d => fun s =>
    if dataInRange s.cfg a then (s.memWrite a d).respond .ok [] else s.raise .addressOutOfRangeError
  | .reservedOp9 => id
  | .reservedOp10 => id
  | .reservedOp11 => id
  | .reservedOp12 => id
  | .reservedOp13 => id
  | .reservedOp14 => id
  | .reservedOp15 => id
  | .insn opcode arg1 arg2 => fun s => s.decoderOutput opcode arg1 arg2

/-- Every instruction is a served command. -/
theorem exec_eq_serve (i : Instr) (s : State) : exec i s = s.serve (commandOf i) (ruleOf i) := by
  cases i <;> rfl

/-- All that an instruction can do, where it gives a next state. -/
theorem exec_next {i : Instr} {s t : State} (h : exec i s = .next t) :
    s.faulted = none ∧
      ((Legal (commandOf i) s.life = true ∧ t = ruleOf i s) ∨
        (Legal (commandOf i) s.life = false ∧
          ∃ r, protocolCheck (commandOf i) s.life = some r ∧ t = s.recordFault r)) := by
  rw [exec_eq_serve] at h
  exact State.serve_next h

/-- No instruction is refused. -/
theorem exec_not_refused (i : Instr) (s : State) (r : Refusal) : exec i s ≠ .refused r := by
  rw [exec_eq_serve]
  unfold State.serve
  cases s.faulted with
  | some _ => simp
  | none => cases protocolCheck (commandOf i) s.life <;> simp

/-- A step with a request on the port. -/
theorem step_cons {s : State} {r : Request} {rs : List Request} (h : s.reqs = r :: rs) :
    step s = exec (decodeRequest s.cfg r) s.takeRequest := by
  simp [step, h]

/-- A step with no request on the port. -/
theorem step_nil {s : State} (h : s.reqs = []) : step s = s.idle := by
  simp [step, h]

/-- A run goes on from the next state. -/
theorem stepN_succ {s t : State} (n : Nat) (h : step s = .next t) : stepN (n + 1) s = stepN n t := by
  simp only [stepN, h]

/-- The steps of a run are those of the host's interface. -/
theorem stepN_eq_core_run (n : Nat) : ∀ s : State, stepN n s = Sys2Proof.core.run n s := by
  induction n with
  | zero => intro s; rfl
  | succ n ih =>
    intro s
    have hc : Sys2Proof.core.step s = step s := rfl
    simp only [stepN, Host.Core.run, hc]
    cases step s with
    | next t => exact ih t
    | fault r => rfl
    | refused r => rfl

end Sys2Proof.Machine
end

