-- ==== Sys2Proof/Laws/Decode.lean ====
section
/-! SUPPORT. The fields of a request word, put together and taken apart, and the integers of the address buses. -/

namespace Sys2Proof

/-! ## The request word -/

/-- What a request word is as a number (R52). -/
theorem reqWord_toNat (op : BitVec 4) (v : Bool) (d : Byte) :
    (reqWord op v d).toNat = op.toNat * 0x200 + v.toNat * 0x100 + d.toNat := by
  have h1 := op.isLt
  have h2 := d.isLt
  have h3 := Bool.toNat_le v
  rw [reqWord, BitVec.toNat_ofNat]
  omega

@[simp] theorem reqOp_reqWord (op : BitVec 4) (v : Bool) (d : Byte) : reqOp (reqWord op v d) = op := by
  have h1 := op.isLt
  have h2 := d.isLt
  have h3 := Bool.toNat_le v
  apply BitVec.eq_of_toNat_eq
  rw [reqOp, BitVec.extractLsb'_toNat, reqWord_toNat, Nat.shiftRight_eq_div_pow]
  omega

@[simp] theorem reqV_reqWord (op : BitVec 4) (v : Bool) (d : Byte) : reqV (reqWord op v d) = v := by
  have h2 := d.isLt
  rw [reqV, BitVec.getLsbD, reqWord_toNat, Nat.testBit_eq_decide_div_mod_eq]
  cases v <;> simp <;> omega

@[simp] theorem reqD_reqWord (op : BitVec 4) (v : Bool) (d : Byte) : reqD (reqWord op v d) = d := by
  have h2 := d.isLt
  apply BitVec.eq_of_toNat_eq
  rw [reqD, BitVec.extractLsb'_toNat, reqWord_toNat, Nat.shiftRight_eq_div_pow]
  omega

/-! ## The address buses -/

theorem two_pow_pred {n : Nat} (h : 1 ≤ n) : 2 ^ n = 2 * 2 ^ (n - 1) := by
  obtain ⟨k, rfl⟩ : ∃ k, n = k + 1 := ⟨n - 1, by omega⟩
  rw [Nat.add_sub_cancel, pow_succ, Nat.mul_comm]

/-- `sval` is within the two's-complement range of its width. -/
theorem sval_range {n : Nat} (v : Nat) (h : 1 ≤ n) :
    -(2 ^ (n - 1) : Int) ≤ sval n v ∧ sval n v < (2 ^ (n - 1) : Int) := by
  have hp := two_pow_pred h
  have hz : (2 ^ n : Int) = 2 * 2 ^ (n - 1) := by exact_mod_cast hp
  have hm : v % 2 ^ n < 2 ^ n := Nat.mod_lt _ (by positivity)
  unfold sval
  have hc : ((2 ^ (n - 1) : Nat) : Int) = 2 ^ (n - 1) := by push_cast; rfl
  split <;> omega

/-- The bus value of an integer that fits presents that integer. -/
theorem sval_busOfInt {n : Nat} (x : Int) (h : 1 ≤ n) (hl : -(2 ^ (n - 1) : Int) ≤ x)
    (hu : x < (2 ^ (n - 1) : Int)) : sval n (busOfInt n x) = x := by
  have hp := two_pow_pred h
  have hz : (2 ^ n : Int) = 2 * 2 ^ (n - 1) := by exact_mod_cast hp
  have hc : ((2 ^ (n - 1) : Nat) : Int) = 2 ^ (n - 1) := by push_cast; rfl
  have hcn : ((2 ^ n : Nat) : Int) = 2 ^ n := by push_cast; rfl
  have hpos : (0 : Int) < 2 ^ (n - 1) := by positivity
  have hb : ((busOfInt n x : Nat) : Int) = if 0 ≤ x then x else x + 2 ^ n := by
    unfold busOfInt
    rw [Int.toNat_of_nonneg (Int.emod_nonneg _ (by omega))]
    split
    · exact Int.emod_eq_of_lt (by omega) (by omega)
    · rw [← Int.add_emod_right, Int.emod_eq_of_lt (by omega) (by omega)]
  have hlt : busOfInt n x < 2 ^ n := by
    split at hb <;> omega
  unfold sval
  rw [Nat.mod_eq_of_lt hlt]
  split at hb <;> split <;> omega

end Sys2Proof
end

