-- ==== Sys2Proof/Laws/PerInstr.lean ====
section
/-! SUPPORT. The per-instruction family OpcodeField: the `op` field of the request that carries an instruction is the number the command map gives it (R55), and `INSN` is carried by no request (R60). -/

namespace Sys2Proof.Laws.OpcodeField

/-- `op` as the command map of R55 numbers it; `INSN` is no command. -/
def number : Instr → Option (BitVec 4)
  | .alloc => some 0
  | .release => some 1
  | .loadBegin _ => some 2
  | .loadByte _ => some 3
  | .loadEnd => some 4
  | .loadAbort => some 5
  | .fetch _ => some 6
  | .loadb _ => some 7
  | .storeb _ _ => some 8
  | .reservedOp9 => some 9
  | .reservedOp10 => some 10
  | .reservedOp11 => some 11
  | .reservedOp12 => some 12
  | .reservedOp13 => some 13
  | .reservedOp14 => some 14
  | .reservedOp15 => some 15
  | .insn _ _ _ => none

/-- The request that carries the instruction has that `op`. -/
def Statement (i : Instr) : Prop :=
  ∀ c : Config, (encodeRequest c i).map (fun r => reqOp r.req) = number i

theorem alloc : Statement .alloc := by
  intro c
  simp [encodeRequest, number]

theorem release : Statement .release := by
  intro c
  simp [encodeRequest, number]

theorem loadBegin (v : Bool) : Statement (.loadBegin v) := by
  intro c
  simp [encodeRequest, number]

theorem loadByte (d : Byte) : Statement (.loadByte d) := by
  intro c
  simp [encodeRequest, number]

theorem loadEnd : Statement .loadEnd := by
  intro c
  simp [encodeRequest, number]

theorem loadAbort : Statement .loadAbort := by
  intro c
  simp [encodeRequest, number]

theorem fetch (pos : Int) : Statement (.fetch pos) := by
  intro c
  simp [encodeRequest, number]

theorem loadb (a : Nat) : Statement (.loadb a) := by
  intro c
  simp [encodeRequest, number]

theorem storeb (a : Nat) (d : Byte) : Statement (.storeb a d) := by
  intro c
  simp [encodeRequest, number]

theorem reservedOp9 : Statement .reservedOp9 := by
  intro c
  simp [encodeRequest, number]

theorem reservedOp10 : Statement .reservedOp10 := by
  intro c
  simp [encodeRequest, number]

theorem reservedOp11 : Statement .reservedOp11 := by
  intro c
  simp [encodeRequest, number]

theorem reservedOp12 : Statement .reservedOp12 := by
  intro c
  simp [encodeRequest, number]

theorem reservedOp13 : Statement .reservedOp13 := by
  intro c
  simp [encodeRequest, number]

theorem reservedOp14 : Statement .reservedOp14 := by
  intro c
  simp [encodeRequest, number]

theorem reservedOp15 : Statement .reservedOp15 := by
  intro c
  simp [encodeRequest, number]

theorem insn (opcode arg1 arg2 : Byte) : Statement (.insn opcode arg1 arg2) := by
  intro c
  simp [encodeRequest, number]

end Sys2Proof.Laws.OpcodeField
end

