-- ==== Sys2Proof/Laws/RunEnd.lean ====
section
/-! SUPPORT. When a run has ended, case by case of its definition. -/

namespace Sys2Proof.Machine

/-- A recorded protocol fault ends the run, whatever requests are left. -/
theorem State.runEnd_faulted {s : State} {r : ProtocolFault} (h : s.faulted = some r) :
    s.runEnd = some (.protocolFault r) := by
  simp [State.runEnd, h]

/-- A run with a request still to come has not ended. -/
theorem State.runEnd_waiting {s : State} (h : s.faulted = none) (hr : s.reqs ≠ []) : s.runEnd = none := by
  obtain ⟨q, qs, hq⟩ := List.exists_cons_of_ne_nil hr
  simp [State.runEnd, h, hq]

/-- With no request to come, an error response ends the run, and an `OK` response does in `RELEASED` only. -/
theorem State.runEnd_answered {s : State} {p : Response} (h : s.faulted = none) (hr : s.reqs = [])
    (hp : s.resp = some p) :
    s.runEnd = if p.status = .ok then if s.life = .released then some .released else none
      else some (.halted p.status) := by
  simp [State.runEnd, h, hr, hp]

/-- All the states in which a run has ended. -/
theorem State.runEnd_some {s : State} {e : RunEnd} (h : s.runEnd = some e) :
    (∃ r, s.faulted = some r ∧ e = .protocolFault r) ∨
      (s.faulted = none ∧ s.reqs = [] ∧ ∃ p, s.resp = some p ∧
        ((p.status = .ok ∧ s.life = .released ∧ e = .released) ∨ (p.status ≠ .ok ∧ e = .halted p.status))) := by
  unfold State.runEnd at h
  split at h
  · rename_i r hf
    exact .inl ⟨r, hf, by simpa using h.symm⟩
  · rename_i hf
    refine .inr ⟨hf, ?_⟩
    split at h
    · cases h
    · rename_i hr
      refine ⟨hr, ?_⟩
      split at h
      · cases h
      · rename_i p hp
        refine ⟨p, hp, ?_⟩
        split at h
        · rename_i hok
          split at h
          · rename_i hl
            exact .inl ⟨hok, hl, by simpa using h.symm⟩
          · cases h
        · rename_i hne
          exact .inr ⟨hne, by simpa using h.symm⟩

end Sys2Proof.Machine
end

