-- ==== Sys2Proof/Tests/Slice0.lean ====
section
/-! SUPPORT. Tests of the model against the spec's own vectors (95_test_vectors.md), and for each statement with
hypotheses a witness that meets them all. -/

namespace Sys2Proof.Tests

open Sys2Proof.Machine

/-! ## Helpers -/

/-- A state with given parameters, lifecycle and contents; the next draw succeeds. -/
def st (c : Config) (l : Life) (m : Memory) : State :=
  { State.resetWith c with life := l, mem := m, draws := [true] }

/-- A session open in RC1 with one byte sent over fresh storage. -/
def session : State := { st Config.rc1 .loading [(64, 1)] with lcnt := 1 }

/-- A session open in RC3 that has filled the code region (vector L1). -/
def full : State := { st Config.rc3 .loading [(8, 0x21), (15, 0x28)] with lcnt := 8 }

def next? (o : Host.Outcome State Fault Refusal) : Option State :=
  match o with
  | .next t => some t
  | .fault _ => none
  | .refused _ => none

/-- One step on one request, how the run has ended, and whether that is a successful end. -/
def endOf (s : State) (r : Request) : Option (Option RunEnd × Bool) :=
  (next? (step { s with reqs := [r] })).map fun t =>
    (t.runEnd, match t.runEnd with | some e => e.successful | none => false)

/-- The response after one step on one request. -/
def respOf (s : State) (r : Request) : Option (Option Response) :=
  (next? (step { s with reqs := [r] })).map (fun t => t.resp)

/-- What one step on one request leaves of `life`, `mem` and `faulted`. -/
def leaves (s : State) (r : Request) : Option (Life × Memory × Option ProtocolFault) :=
  (next? (step { s with reqs := [r] })).map (fun t => (t.life, t.mem, t.faulted))

/-! ## WellFormed smoke: an ill-formed term for each check -/

theorem test_wf_fetch_too_high : (Instr.fetch 256).wellFormed Config.rc1 = false := by decide
theorem test_wf_fetch_too_low : (Instr.fetch (-257)).wellFormed Config.rc1 = false := by decide
theorem test_wf_fetch_edges :
    (Instr.fetch 255).wellFormed Config.rc1 = true ∧ (Instr.fetch (-256)).wellFormed Config.rc1 = true := by decide
theorem test_wf_loadb_too_high : (Instr.loadb 256).wellFormed Config.rc1 = false := by decide
theorem test_wf_storeb_too_high : (Instr.storeb 256 0).wellFormed Config.rc1 = false := by decide
theorem test_config_stack_above_ram : ¬ ({ Config.rc1 with maxStack := 257 } : Config).Valid := by decide
theorem test_config_fetch_bus_narrow : ¬ ({ Config.rc1 with fetchAw := 8 } : Config).Valid := by decide
theorem test_configs_valid : Config.rc1.Valid ∧ Config.rc2.Valid ∧ Config.rc3.Valid := by decide

/-! ## Decoding: every constructor from a word written out from R52, R55, R60 (vectors E1 to E16) -/

theorem test_decode_alloc : decodeTableWord 16 0b0000000000000 = some .alloc := by decide
theorem test_decode_release : decodeTableWord 16 0b0001000000000 = some .release := by decide
theorem test_decode_load_begin_0 : decodeTableWord 16 0b0010000000000 = some (.loadBegin false) := by decide
theorem test_decode_load_begin_1 : decodeTableWord 16 0b0010100000000 = some (.loadBegin true) := by decide
theorem test_decode_load_byte : decodeTableWord 16 0b0011000000001 = some (.loadByte 0x01) := by decide
theorem test_decode_load_end : decodeTableWord 16 0b0100000000000 = some .loadEnd := by decide
theorem test_decode_load_abort : decodeTableWord 16 0b0101000000000 = some .loadAbort := by decide
theorem test_decode_fetch : decodeTableWord 16 0b0110000000000 = some (.fetch 0) := by decide
theorem test_decode_loadb : decodeTableWord 16 0b0111000000000 = some (.loadb 0) := by decide
theorem test_decode_storeb : decodeTableWord 16 0b1000010011001 = some (.storeb 0 0x99) := by decide
theorem test_decode_reserved_9 : decodeTableWord 16 0b1001000000000 = some .reservedOp9 := by decide
theorem test_decode_reserved_10 : decodeTableWord 16 0b1010000000000 = some .reservedOp10 := by decide
theorem test_decode_reserved_11 : decodeTableWord 16 0b1011000000000 = some .reservedOp11 := by decide
theorem test_decode_reserved_12 : decodeTableWord 16 0b1100000000000 = some .reservedOp12 := by decide
theorem test_decode_reserved_13 : decodeTableWord 16 0b1101000000000 = some .reservedOp13 := by decide
theorem test_decode_reserved_14 : decodeTableWord 16 0b1110000000000 = some .reservedOp14 := by decide
theorem test_decode_reserved_15 : decodeTableWord 16 0b1111111111111 = some .reservedOp15 := by decide
theorem test_decode_insn : decodeTableWord 24 0xFF807F = some (.insn 0xFF 0x80 0x7F) := by decide

/-- Vectors E6, E8: ignored fields. -/
theorem test_decode_ignores_fields :
    decodeTableWord 16 0x05C3 = some (.loadBegin true) ∧ decodeTableWord 16 0x07FF = some (.loadByte 0xFF) := by
  decide

/-- `REQ` has 13 bits and an instruction three bytes. -/
theorem test_decode_rejects_by_name :
    decodeTable 16 0x2000 = .error .tooWide ∧ decodeInsn [1, 2] = .error .truncated ∧
      decodeTable 20 0 = .error .noSuchLength := by
  refine ⟨rfl, rfl, rfl⟩

/-- The `fa` values of 95_test_vectors.md: in RC1 `-1 -> 0x1FF`, `-256 -> 0x100`, in RC3 `-32 -> 0x20`. -/
theorem test_fetch_bus :
    decodeRequest Config.rc1 ⟨0x0C00, 0x1FF, 0⟩ = .fetch (-1) ∧
      decodeRequest Config.rc1 ⟨0x0C00, 0x100, 0⟩ = .fetch (-256) ∧
      decodeRequest Config.rc1 ⟨0x0C00, 0x0FD, 0⟩ = .fetch 253 ∧
      decodeRequest Config.rc3 ⟨0x0C00, 0x20, 0⟩ = .fetch (-32) := by decide

/-- `da = 0x80` is address 128 (conflict C2). -/
theorem test_data_bus : decodeRequest Config.rc1 ⟨0x0E00, 0, 0x80⟩ = .loadb 128 := by decide

theorem test_encode_words :
    encode Config.rc1 (.loadByte 0x7F) = .request ⟨0x067F, 0, 0⟩ ∧
      encode Config.rc1 (.fetch (-1)) = .request ⟨0x0C00, 0x1FF, 0⟩ ∧
      encode Config.rc1 (.storeb 65 0x99) = .request ⟨0x1099, 0, 0x41⟩ ∧
      encode Config.rc1 (.insn 1 2 3) = .bytes [1, 2, 3] := by decide

theorem test_status_codes :
    [Status.ok, .allocationError, .sourceUnavailableError, .codeTooLargeError, .memoryOverflowError,
      .addressOutOfRangeError].map Status.code = [0, 1, 2, 3, 4, 5] := by decide

/-! ## One step each -/

/-- Vector A1. -/
theorem test_alloc_zero_fills :
    leaves (st Config.rc3 .unalloc [(3, 9)]) ⟨0x0000, 0, 0⟩ = some (.ready, [], none) := by decide

/-- Vector A8: `ALLOC` fails in `RELEASED`. -/
theorem test_alloc_fails :
    (next? (step { st Config.rc3 .released [] with reqs := [⟨0x0000, 0, 0⟩], draws := [false] })).map
      (fun t => (t.life, t.resp)) = some (.released, some ⟨.allocationError, []⟩) := by decide

/-- Vector A5. -/
theorem test_alloc_while_allocated :
    leaves (st Config.rc3 .ready []) ⟨0x0000, 0, 0⟩ = some (.ready, [], some .allocWhileAllocated) := by decide

/-- Vectors R-1, R-3. -/
theorem test_release :
    leaves (st Config.rc3 .ready []) ⟨0x0200, 0, 0⟩ = some (.released, [], none) ∧
      leaves (st Config.rc3 .unalloc []) ⟨0x0200, 0, 0⟩ = some (.unalloc, [], some .releaseNotAllocated) := by decide

/-- Vector L14: `RELEASE` in a session. -/
theorem test_release_in_session : (leaves session ⟨0x0200, 0, 0⟩).map (fun x => x.1) = some .released := by decide

/-- Vector L6. -/
theorem test_load_begin_unavailable :
    leaves (st Config.rc3 .ready [(9, 5)]) ⟨0x0400, 0, 0⟩ = some (.ready, [(9, 5)], none) ∧
      respOf (st Config.rc3 .ready []) ⟨0x0400, 0, 0⟩ = some (some ⟨.sourceUnavailableError, []⟩) := by decide

/-- Program P4 step 3: `snap = mem`. -/
theorem test_load_begin_snapshot :
    (next? (step { st Config.rc3 .ready [(9, 0x55)] with lcnt := 7, reqs := [⟨0x0500, 0, 0⟩] })).map
      (fun t => (t.life, t.lcnt, t.snap)) = some (.loading, 0, [(9, 0x55)]) := by decide

/-- W8 step 4: the second byte goes to 65. -/
theorem test_load_byte :
    leaves session ⟨0x0602, 0, 0⟩ = some (.loading, [(64, 1), (65, 2)], none) := by decide

/-- Vector L2: the overflowing byte is written nowhere and closes the session. -/
theorem test_load_byte_overflow :
    leaves full ⟨0x0629, 0, 0⟩ = some (.ready, [(8, 0x21), (15, 0x28)], none) ∧
      respOf full ⟨0x0629, 0, 0⟩ = some (some ⟨.codeTooLargeError, []⟩) := by decide

/-- Vector L4 (after the overflow): a further byte. -/
theorem test_load_byte_outside :
    leaves (st Config.rc3 .ready []) ⟨0x062A, 0, 0⟩ = some (.ready, [], some .loadByteOutsideSession) := by decide

theorem test_load_end :
    leaves session ⟨0x0800, 0, 0⟩ = some (.ready, [(64, 1)], none) ∧
      leaves (st Config.rc3 .ready []) ⟨0x0800, 0, 0⟩ = some (.ready, [], some .loadEndOutsideSession) := by decide

/-- Vector L8: three bytes sent over `mem[8..9] = 41 42`. -/
theorem test_load_abort_restores :
    leaves { st Config.rc3 .loading [(8, 0xC1), (9, 0xC2), (10, 0xC3)] with
      lcnt := 3, snap := [(8, 0x41), (9, 0x42)] } ⟨0x0A00, 0, 0⟩ =
      some (.ready, [(8, 0x41), (9, 0x42)], none) := by decide

/-- Vectors F2, F5 on `mem[64..66] = 01 02 03`, `mem[253..255] = 0A 0B 0C`. -/
theorem test_fetch :
    respOf (st Config.rc1 .ready [(64, 1), (65, 2), (66, 3)]) ⟨0x0C00, 0x041, 0⟩ = some (some ⟨.ok, [2, 3, 0]⟩) ∧
      respOf (st Config.rc1 .ready [(253, 0x0A), (254, 0x0B), (255, 0x0C)]) ⟨0x0C00, 0x0FD, 0⟩ =
        some (some ⟨.ok, [0x0A, 0x0B, 0x0C]⟩) := by decide

/-- Vectors F6, F8. -/
theorem test_fetch_overflow :
    respOf (st Config.rc1 .ready []) ⟨0x0C00, 0x0FE, 0⟩ = some (some ⟨.memoryOverflowError, []⟩) ∧
      respOf (st Config.rc1 .ready []) ⟨0x0C00, 0x1FF, 0⟩ = some (some ⟨.memoryOverflowError, []⟩) := by decide

/-- Vectors B2, B4. -/
theorem test_loadb :
    respOf (st Config.rc1 .ready [(128, 0x5C)]) ⟨0x0E00, 0, 0x80⟩ = some (some ⟨.ok, [0x5C]⟩) ∧
      respOf (st Config.rc2 .ready []) ⟨0x0E00, 0, 0xC7⟩ = some (some ⟨.ok, [0]⟩) := by decide

/-- Vectors B5, B13. -/
theorem test_loadb_refused_addresses :
    respOf (st Config.rc2 .ready []) ⟨0x0E00, 0, 0xC8⟩ = some (some ⟨.addressOutOfRangeError, []⟩) ∧
      (leaves session ⟨0x0E00, 0, 0⟩).map (fun x => x.2.2) = some (some .dataNotReady) := by decide

/-- Vector B7, and the canonical form: storing 0 unlists. -/
theorem test_storeb :
    leaves (st Config.rc2 .ready []) ⟨0x1001, 0, 0x80⟩ = some (.ready, [(128, 1)], none) ∧
      leaves (st Config.rc2 .ready [(5, 7), (128, 1)]) ⟨0x1000, 0, 0x80⟩ = some (.ready, [(5, 7)], none) := by decide

/-- Vector B10. -/
theorem test_storeb_out_of_range :
    leaves (st Config.rc3 .ready [(3, 1)]) ⟨0x1099, 0, 0x10⟩ = some (.ready, [(3, 1)], none) ∧
      respOf (st Config.rc3 .ready []) ⟨0x1099, 0, 0x10⟩ = some (some ⟨.addressOutOfRangeError, []⟩) := by decide

/-- Vectors E15, E16. -/
theorem test_reserved :
    leaves (st Config.rc3 .ready []) ⟨0x1200, 0, 0⟩ = some (.ready, [], some .reservedOp) ∧
      leaves (st Config.rc3 .unalloc []) ⟨0x1FFF, 0, 0⟩ = some (.unalloc, [], some .reservedOp) := by decide

/-- After A4 "an `ALLOC` has no step". -/
theorem test_faulted_has_no_step :
    next? (step { st Config.rc3 .unalloc [] with faulted := some .useBeforeAlloc, reqs := [⟨0, 0, 0⟩] }) = none := by
  decide

/-- Placing a table word and stepping, from reset (RC1). -/
theorem test_with_fetch_word :
    (next? (step (State.reset.withFetchWord 16 0x0E00))).map (fun t => t.faulted) = some (some .useBeforeAlloc) ∧
      (next? (step (State.reset.withFetchWord 24 0xFF807F))).map (fun t => t.resp) =
        some (some ⟨.ok, [0xFF, 0x80, 0x7F]⟩) := by decide

/-- The last steps of programs P1 (`RELEASE`), P2 (`FETCH 254` in RC1) and P5 (`LOADB` after
`RELEASE`). That P2's end is not successful is the model's (log entry 18). -/
theorem test_run_ends :
    endOf (st Config.rc1 .ready []) ⟨0x0200, 0, 0⟩ = some (some .released, true) ∧
      endOf (st Config.rc1 .ready []) ⟨0x0C00, 0x0FE, 0⟩ = some (some (.halted .memoryOverflowError), false) ∧
      endOf (st Config.rc1 .released []) ⟨0x0E00, 0, 0⟩ = some (some (.protocolFault .useAfterRelease), false) := by
  decide

/-- A run has not ended by an `OK` other than `RELEASE`'s. -/
theorem test_run_goes_on : endOf (st Config.rc1 .ready []) ⟨0x0E00, 0, 0⟩ = some (none, false) := by decide

/-! ## Witnesses: states and operands that meet a statement's hypotheses together -/

theorem session_inv : Inv session := by
  refine fun _ => ⟨by decide, ⟨rfl, rfl⟩, fun _ => ⟨by decide, ⟨rfl, rfl⟩, ?_⟩⟩
  intro a ha
  have h : session.cfg.maxStack = 64 ∧ session.lcnt = 1 ∧ session.mem = [(64, 1)] ∧ session.snap = [] :=
    ⟨rfl, rfl, rfl, rfl⟩
  rw [h.1, h.2.1] at ha
  rw [h.2.2.1, h.2.2.2, Memory.read_cons, if_neg (by omega)]

theorem full_inv : Inv full := by
  refine fun _ => ⟨by decide, ⟨rfl, rfl⟩, fun _ => ⟨by decide, ⟨rfl, rfl⟩, ?_⟩⟩
  intro a ha
  have h : full.cfg.maxStack = 8 ∧ full.lcnt = 8 ∧ full.mem = [(8, 0x21), (15, 0x28)] ∧ full.snap = [] :=
    ⟨rfl, rfl, rfl, rfl⟩
  rw [h.1, h.2.1] at ha
  rw [h.2.2.1, h.2.2.2, Memory.read_cons, if_neg (by omega), Memory.read_cons, if_neg (by omega)]

/-- Parameters, an instruction at the edge of its bus, and a reserved one. -/
theorem test_wit_DecodeOfEncode :
    Config.rc1.Valid ∧ (Instr.fetch (-256)).wellFormed Config.rc1 = true ∧
      (Instr.storeb 255 0xFF).wellFormed Config.rc1 = true ∧ Instr.reservedOp15.wellFormed Config.rc1 = true := by
  decide

theorem test_wit_DecodedRequestIsWellFormed : Config.rc3.Valid := by decide

/-- Two different requests that agree on what each of `LOAD_BEGIN`, `LOAD_BYTE`, `FETCH`, `STOREB` reads. -/
theorem test_wit_UnreadRequestFieldsAreIgnored :
    (reqOp 0x0500 = reqOp 0x05C3 ∧ reqV 0x0500 = reqV 0x05C3) ∧
      (reqOp 0x06FF = reqOp 0x07FF ∧ reqD 0x06FF = reqD 0x07FF) ∧ reqOp 0x0C00 = reqOp 0x0D23 ∧
      (reqOp 0x1099 = reqOp 0x1199 ∧ reqD 0x1099 = reqD 0x1199) := by decide

/-- The largest bus values, with each `op` that reads a bus. -/
theorem test_wit_AddressBusesPresentTheirIntegers :
    1 ≤ Config.rc1.fetchAw ∧ 0x1FF < 2 ^ Config.rc1.fetchAw ∧ 0xFF < 2 ^ Config.rc1.lsAw ∧
      reqOp 0x0C00 = 6 ∧ reqOp 0x0E00 = 7 ∧ reqOp 0x1000 = 8 := by decide

theorem test_wit_StepRunsTheDecodedRequest :
    ({ session with reqs := [⟨0x0602, 0, 0⟩] } : State).reqs = ⟨0x0602, 0, 0⟩ :: [] := rfl

theorem test_wit_NoRequestNoChange : session.reqs = [] ∧ session.faulted = none := by decide

theorem test_wit_FetchRunsTheDecodedInstruction :
    (0 : Int) ≤ 253 ∧ (253 : Int) + 2 < (st Config.rc1 .ready []).cfg.maxRam := by decide

theorem test_wit_PlacedRequestWordIsPerformed : decodeTableWord 16 0x1FFF = some .reservedOp15 := by decide

theorem test_wit_PlacedInstructionIsFetched :
    State.reset.cfg.Valid ∧ 3 ≤ State.reset.cfg.maxRam ∧ State.reset.faulted = none := by decide

/-- A request on the port of a state with no fault, legal in it. -/
theorem test_wit_EveryRequestIsAnsweredInOneStep :
    ({ session with reqs := [⟨0x0800, 0, 0⟩] } : State).faulted = none ∧
      ({ session with reqs := [⟨0x0800, 0, 0⟩] } : State).reqs = ⟨0x0800, 0, 0⟩ :: [] ∧
      Legal (commandOf (decodeRequest session.cfg ⟨0x0800, 0, 0⟩)) session.life = true := by decide

/-- Each of the four `life` values, with no fault: the clauses of the table. -/
theorem test_wit_ProtocolTable :
    ∀ l ∈ [Life.unalloc, .ready, .loading, .released],
      (st Config.rc1 l []).faulted = none ∧ (st Config.rc1 l []).life = l := by decide

theorem test_wit_ReservedOpsRecordTheFault : (st Config.rc1 .ready []).faulted = none := by decide

theorem test_wit_FaultedStateHasNoStep :
    ({ session with faulted := some .dataNotReady } : State).faulted = some .dataNotReady := rfl

theorem test_wit_FaultsAreExactlyTheIllegalRequests :
    ∃ t, step { session with reqs := [⟨0x0E00, 0, 0⟩] } = .next t ∧ t.faulted = some .dataNotReady := ⟨_, rfl, rfl⟩

theorem test_wit_ResetAdmitsOnlyAlloc :
    ∃ t, Instr.release ≠ .alloc ∧ exec .release (State.resetWith Config.rc1) = .next t := ⟨_, by decide, rfl⟩

theorem test_wit_AfterReleaseOnlyAllocIsLegal :
    ∃ t, (st Config.rc1 .released []).life = .released ∧ exec .alloc (st Config.rc1 .released []) = .next t ∧
      t.faulted = none := ⟨_, rfl, rfl, rfl⟩

/-- Both legal lifecycles, and the three draws: one that succeeds, one that fails, and one under no law. -/
theorem test_wit_AllocByTheDraw :
    (st Config.rc1 .unalloc []).draws = true :: [] ∧ (st Config.rc1 .unalloc []).allocOk = true ∧
      ({ st Config.rc1 .released [(1, 1)] with draws := [false] } : State).allocOk = false ∧
      ({ st Config.rc1 .unalloc [] with draws := [] } : State).draws = [] ∧
      (st Config.rc1 .unalloc []).life = .unalloc ∧ (st Config.rc1 .released []).life = .released ∧
      (st Config.rc1 .unalloc []).faulted = none := by decide

/-- A retry that succeeds (vector A3) from `UNALLOC`, and one that fails from `RELEASED`. -/
theorem test_wit_RetriedAllocTakesTheNextDraw :
    ({ st Config.rc3 .unalloc [] with draws := [false, true] } : State).draws = false :: true :: [] ∧
      (st Config.rc3 .unalloc []).life = .unalloc ∧ (st Config.rc3 .unalloc []).faulted = none ∧
      ({ st Config.rc3 .released [(1, 1)] with draws := [false, false] } : State).draws = false :: false :: [] ∧
      (st Config.rc3 .released [(1, 1)]).life = .released ∧ (st Config.rc3 .released [(1, 1)]).faulted = none := by
  decide

theorem test_wit_FailedAllocLeavesNoStorage :
    ∃ t u, exec .alloc { st Config.rc1 .unalloc [] with draws := [false] } = .next t ∧
      t.resp = some ⟨.allocationError, []⟩ ∧ Instr.loadEnd ≠ .alloc ∧ exec .loadEnd t = .next u :=
  ⟨_, _, rfl, rfl, by decide, rfl⟩

/-- After `ALLOC`: a load of an empty source, then a fetch. -/
theorem test_wit_FreshStorageReadsZero :
    ∃ t u, exec .alloc (st Config.rc1 .unalloc []) = .next t ∧ t.resp = some ⟨.ok, []⟩ ∧
      Runs [.loadBegin true, .loadEnd, .fetch 0] t u ∧
      (∀ i ∈ [Instr.loadBegin true, .loadEnd, .fetch 0], (∀ d, i ≠ .loadByte d) ∧ (∀ a d, i ≠ .storeb a d)) ∧
      u.faulted = none ∧ u.life = .ready :=
  ⟨_, _, rfl, rfl, ⟨_, rfl, _, rfl, _, rfl, rfl⟩, by simp, rfl, rfl⟩

theorem test_wit_ReleaseEndsTheStorage :
    (st Config.rc1 .ready []).faulted = none ∧ (st Config.rc1 .ready []).life = .ready ∧
      session.faulted = none ∧ session.life = .loading := by decide

theorem test_wit_LoadBeginOpensOrReports :
    (st Config.rc1 .ready [(9, 5)]).faulted = none ∧ (st Config.rc1 .ready [(9, 5)]).life = .ready := by decide

/-- One state in each clause: the last byte that fits would be at 15, the next at 16 = `MAX_RAM`. -/
theorem test_wit_LoadByteWritesOrOverflows :
    full.faulted = none ∧ full.life = .loading ∧ full.cfg.maxRam ≤ full.cfg.maxStack + full.lcnt ∧
      ({ full with lcnt := 7 } : State).cfg.maxStack + 7 < full.cfg.maxRam := by decide

theorem test_wit_LoadEndClosesTheSession : session.faulted = none ∧ session.life = .loading := by decide

theorem test_wit_LoadAbortWritesBack :
    session.faulted = none ∧ session.life = .loading ∧
      session.cfg.maxStack ≤ 64 ∧ 64 < session.cfg.maxStack + session.lcnt := by decide

theorem test_wit_LoadAbortRestoresTheStorage :
    ∃ t, Inv session ∧ session.life = .loading ∧ exec .loadAbort session = .next t := ⟨_, session_inv, rfl, rfl⟩

/-- Addresses just outside the code region and just outside the session. -/
theorem test_wit_CodeLoadWritesOnlyTheCodeRegion :
    ∃ t u, Inv session ∧ exec .loadAbort session = .next t ∧ t.faulted = none ∧
      exec (.loadByte 5) session = .next u ∧ u.faulted = none ∧
      63 < session.cfg.maxStack ∧ session.cfg.maxRam ≤ 256 ∧ session.cfg.maxStack + session.lcnt ≤ 65 :=
  ⟨_, _, session_inv, rfl, rfl, rfl, rfl, by decide, by decide, by decide⟩

theorem test_wit_SessionOpensAndCloses :
    ∃ t u, exec (.loadBegin true) (st Config.rc1 .ready []) = .next t ∧ t.faulted = none ∧
      (st Config.rc1 .ready []).life ≠ .loading ∧ exec (.loadByte 0x29) full = .next u ∧ u.faulted = none ∧
      full.life = .loading := ⟨_, _, rfl, rfl, by decide, rfl, rfl, rfl⟩

/-- The requests of an empty, an unavailable and a failing source, of one of length `C = 8` and of one of length
`C + 1`, delivered whole or failing, and one request waiting behind. -/
theorem test_wit_WholeLoadSession :
    Config.rc3.codeCapacity = 8 ∧
    ∀ src ∈ [Source.complete [], .unavailable, .failedAfter [1], .complete (List.replicate 8 0x21),
        .complete (List.replicate 9 0x21), .failedAfter (List.replicate 8 0x21),
        .failedAfter (List.replicate 9 0x21)],
      ∃ s : State, s.faulted = none ∧ s.life = .ready ∧
        s.reqs = requestsOf s.cfg (src.commands s.cfg) ++ [⟨0x0E00, 0, 0⟩] := by
  refine ⟨by decide, ?_⟩
  intro src _
  exact ⟨{ st Config.rc3 .ready [] with reqs := requestsOf Config.rc3 (src.commands Config.rc3) ++ [⟨0x0E00, 0, 0⟩] },
    rfl, rfl, rfl⟩

/-- The last fetchable address and the first that is not, on either side. -/
theorem test_wit_FetchReturnsTheThreeBytes :
    (st Config.rc1 .ready []).faulted = none ∧ (st Config.rc1 .ready []).life = .ready ∧ (0 : Int) ≤ 253 ∧
      (253 : Int) + 2 < (st Config.rc1 .ready []).cfg.maxRam := by decide

theorem test_wit_FetchOutOfRangeOverflows :
    (st Config.rc1 .ready []).faulted = none ∧ (st Config.rc1 .ready []).life = .ready ∧ (-1 : Int) < 0 ∧
      ((st Config.rc1 .ready []).cfg.maxRam : Int) ≤ 254 + 2 := by decide

theorem test_wit_FetchSucceedsExactlyInRange :
    ∃ t d, (st Config.rc1 .ready []).faulted = none ∧ exec (.fetch 253) (st Config.rc1 .ready []) = .next t ∧
      t.resp = some ⟨.ok, d⟩ ∧ (st Config.rc1 .ready []).life = .ready ∧
      ((st Config.rc1 .ready []).cfg.maxRam : Int) ≤ 254 + 2 := ⟨_, _, rfl, rfl, rfl, rfl, by decide⟩

theorem test_wit_InstructionIsPutOutRaw :
    (st Config.rc1 .ready []).faulted = none ∧ (st Config.rc1 .ready []).life = .ready := by decide

theorem test_wit_LoadbReturnsTheByte :
    (st Config.rc2 .ready []).faulted = none ∧ (st Config.rc2 .ready []).life = .ready ∧
      199 < (st Config.rc2 .ready []).cfg.maxRam := by decide

theorem test_wit_StorebWritesTheByte :
    (st Config.rc3 .ready []).faulted = none ∧ (st Config.rc3 .ready []).life = .ready ∧
      15 < (st Config.rc3 .ready []).cfg.maxRam := by decide

theorem test_wit_DataAccessOutOfRange :
    (st Config.rc2 .ready []).faulted = none ∧ (st Config.rc2 .ready []).life = .ready ∧
      (st Config.rc2 .ready []).cfg.maxRam ≤ 200 := by decide

/-- In RC2, where the port reaches past `MAX_RAM`, and in RC1, where it does not. -/
theorem test_wit_DataPortWindow :
    ∀ c ∈ [Config.rc1, Config.rc2],
      ({ st c .ready [] with reqs := [⟨0x0E00, 0, 0xFF⟩] } : State).reqs = ⟨0x0E00, 0, 0xFF⟩ :: [] ∧
        (st c .ready []).faulted = none ∧ reqOp 0x0E00 = 7 ∧ reqOp 0x1000 = 8 ∧
        2 ^ Config.rc1.lsAw ≤ Config.rc1.maxRam := by decide

/-- Between the store and the load: a store elsewhere and a fetch. -/
theorem test_wit_StoreThenLoadReturnsTheByte :
    ∃ t u, 15 < (st Config.rc3 .ready []).cfg.maxRam ∧ exec (.storeb 15 7) (st Config.rc3 .ready []) = .next t ∧
      t.faulted = none ∧ RunsWithoutWriting 15 [.storeb 14 1, .fetch 13] t u ∧ u.faulted = none ∧
      u.life = .ready := ⟨_, _, by decide, rfl, rfl, ⟨rfl, _, rfl, rfl, _, rfl, rfl⟩, rfl, rfl⟩

/-- A stored byte, fetched as the last of three, and a loaded one as the first. -/
theorem test_wit_StoredByteIsFetched :
    (∃ t u, 15 < (st Config.rc3 .ready []).cfg.maxRam ∧ exec (.storeb 15 7) (st Config.rc3 .ready []) = .next t ∧
      t.faulted = none ∧ RunsWithoutWriting 15 [] t u ∧ u.faulted = none ∧ u.life = .ready ∧
      (13 : Int) + 2 < u.cfg.maxRam) ∧
    ∃ t u, 65 = session.cfg.maxStack + session.lcnt ∧ exec (.loadByte 7) session = .next t ∧ t.faulted = none ∧
      RunsWithoutWriting 65 [.loadEnd] t u ∧ u.faulted = none ∧ u.life = .ready ∧ (65 : Int) + 2 < u.cfg.maxRam :=
  ⟨⟨_, _, by decide, rfl, rfl, rfl, rfl, rfl, by decide⟩,
    ⟨_, _, rfl, rfl, rfl, ⟨rfl, _, rfl, rfl⟩, rfl, rfl, by decide⟩⟩

theorem test_wit_ReadsHaveNoSideEffects :
    ∃ t u, exec (.fetch 64) (st Config.rc1 .ready [(64, 1)]) = .next t ∧ t.faulted = none ∧
      (∀ a, RunsWithoutWriting a [.loadb 3] t u) ∧ u.faulted = none ∧ u.life = .ready :=
  ⟨_, _, rfl, rfl, fun _ => ⟨rfl, _, rfl, rfl⟩, rfl, rfl⟩

/-- Each error status is raised somewhere. -/
theorem test_wit_StatusesOfTheCommands :
    (∃ t, exec .loadAbort session = .next t ∧ t.resp = some ⟨.sourceUnavailableError, []⟩) ∧
      (∃ t, exec (.loadByte 0) full = .next t ∧ t.resp = some ⟨.codeTooLargeError, []⟩) ∧
      (∃ t, exec (.fetch 14) (st Config.rc3 .ready []) = .next t ∧ t.resp = some ⟨.memoryOverflowError, []⟩) ∧
      (∃ t, exec (.loadb 16) (st Config.rc3 .ready []) = .next t ∧ t.resp = some ⟨.addressOutOfRangeError, []⟩) ∧
      ∃ t, exec .alloc { st Config.rc3 .unalloc [] with draws := [false] } = .next t ∧
        t.resp = some ⟨.allocationError, []⟩ :=
  ⟨⟨_, rfl, rfl⟩, ⟨_, rfl, rfl⟩, ⟨_, rfl, rfl⟩, ⟨_, rfl, rfl⟩, ⟨_, rfl, rfl⟩⟩

theorem test_wit_OnlySuccessfulReadsCarryData :
    ∃ t p, exec (.loadb 3) (st Config.rc3 .ready [(3, 9)]) = .next t ∧ t.resp = some p ∧ p.data ≠ [] :=
  ⟨_, _, rfl, rfl, by decide⟩

/-- The three clauses: `CodeTooLargeError`, `LOAD_ABORT`, and an error of neither kind, of `ALLOC` and of `FETCH`. -/
theorem test_wit_ErrorsArePrecise :
    (∃ t p, Inv full ∧ exec (.loadByte 0x29) full = .next t ∧ t.resp = some p ∧ p.status = .codeTooLargeError) ∧
      (∃ t p, Inv session ∧ exec .loadAbort session = .next t ∧ t.resp = some p ∧ p.status ≠ .ok) ∧
      (∃ t p, Inv { State.resetWith Config.rc1 with draws := [false] } ∧
        exec .alloc { State.resetWith Config.rc1 with draws := [false] } = .next t ∧ t.resp = some p ∧
        p.status ≠ .ok ∧ p.status ≠ .codeTooLargeError) ∧
      ∃ t p, Inv (st Config.rc3 .ready []) ∧ exec (.fetch 14) (st Config.rc3 .ready []) = .next t ∧
        t.resp = some p ∧ p.status ≠ .ok ∧ p.status ≠ .codeTooLargeError :=
  ⟨⟨_, _, full_inv, rfl, rfl, rfl⟩, ⟨_, _, session_inv, rfl, rfl, by decide⟩,
    ⟨_, _, fun _ => ⟨by decide, ⟨rfl, rfl⟩, fun h => by cases h⟩, rfl, rfl, by decide, by decide⟩,
    ⟨_, _, fun _ => ⟨by decide, ⟨rfl, rfl⟩, fun h => by cases h⟩, rfl, rfl, by decide, by decide⟩⟩

theorem test_wit_EarlierResponsesAreNotRead :
    ({ session with reqs := [⟨0x0800, 0, 0⟩] } : State).reqs ≠ [] := by decide

/-- Just beside the byte a store writes, and just above a session that is undone. -/
theorem test_wit_StorageFrame :
    (∃ t, exec (.storeb 9 1) (st Config.rc3 .ready []) = .next t ∧ t.faulted = none ∧
      writesAt (.storeb 9 1) (st Config.rc3 .ready []) 10 = false) ∧
      ∃ t, exec .loadAbort session = .next t ∧ t.faulted = none ∧ writesAt .loadAbort session 65 = false :=
  ⟨⟨_, rfl, rfl, rfl⟩, ⟨_, rfl, rfl, rfl⟩⟩

theorem test_wit_ComponentFrame :
    ∃ t, exec (.loadByte 2) session = .next t ∧ t.faulted = none := ⟨_, rfl, rfl⟩

theorem test_wit_ConfigurationIsConstant :
    ∃ t, step { session with reqs := [⟨0x0602, 0, 0⟩] } = .next t := ⟨_, rfl⟩

theorem test_wit_SessionStateIsNotReadOutsideASession :
    ∃ t, (st Config.rc1 .ready []).life ≠ .loading ∧ exec (.loadBegin true) (st Config.rc1 .ready []) = .next t ∧
      t.life = .loading := ⟨_, by decide, rfl, rfl⟩

theorem test_wit_ContentsAreNotReadWithoutStorage :
    ∃ t, (st Config.rc1 .released [(7, 7)]).life = .released ∧
      exec .alloc (st Config.rc1 .released [(7, 7)]) = .next t ∧ t.life = .ready := ⟨_, rfl, rfl, rfl⟩

/-- The last request of a run that ends by release, by a halt on an error and by a protocol fault, and a request
that another follows. -/
theorem test_wit_RunEndsInOneOfThreeWays :
    (∃ t, step { st Config.rc1 .ready [] with reqs := [⟨0x0200, 0, 0⟩] } = .next t ∧
      t.runEnd = some .released) ∧
    (∃ t, step { full with reqs := [⟨0x0629, 0, 0⟩] } = .next t ∧ t.runEnd = some (.halted .codeTooLargeError)) ∧
    (∃ t, step { st Config.rc1 .unalloc [] with reqs := [⟨0x0E00, 0, 0⟩, ⟨0, 0, 0⟩] } = .next t ∧
      t.runEnd = some (.protocolFault .useBeforeAlloc)) ∧
    ∃ t, step { st Config.rc1 .ready [] with reqs := [⟨0x0200, 0, 0⟩, ⟨0, 0, 0⟩] } = .next t ∧ t.runEnd = none :=
  ⟨⟨_, rfl, rfl⟩, ⟨_, rfl, rfl⟩, ⟨_, rfl, rfl⟩, ⟨_, rfl, rfl⟩⟩

/-- A state at each of the three ends. -/
theorem test_wit_EndedRunChangesNothing :
    ({ st Config.rc1 .released [] with resp := some ⟨.ok, []⟩ } : State).runEnd = some .released ∧
      ({ st Config.rc1 .ready [] with resp := some ⟨.memoryOverflowError, []⟩ } : State).runEnd =
        some (.halted .memoryOverflowError) ∧
      ({ st Config.rc1 .ready [] with faulted := some .reservedOp } : State).runEnd =
        some (.protocolFault .reservedOp) := by decide

theorem test_wit_ResetMeetsTheInvariant : Config.rc2.Valid := by decide

theorem test_wit_StepKeepsTheInvariant :
    ∃ t, Inv { session with reqs := [⟨0x0602, 0, 0⟩] } ∧
      step { session with reqs := [⟨0x0602, 0, 0⟩] } = .next t ∧ t.life = .loading := ⟨_, session_inv, rfl, rfl⟩

theorem test_wit_StepKeepsStorageCanonical :
    ∃ t, session.mem.wf = true ∧ step { session with reqs := [⟨0x0602, 0, 0⟩] } = .next t := ⟨_, rfl, rfl⟩

end Sys2Proof.Tests
end

section
/-! Proofs: the decoded request and the draw of `ALLOC` (00_scope.md). -/

namespace Sys2Proof

/-! ## The integers of the address buses -/

/-- On a value that fits its bus no bit is lost, and `sval` is R15's definition read literally. -/
theorem sval_of_lt {n v : Nat} (h : v < 2 ^ n) :
    sval n v = if v < 2 ^ (n - 1) then (v : Int) else (v : Int) - 2 ^ n := by
  rw [sval, Nat.mod_eq_of_lt h]

theorem zext_of_lt {n v : Nat} (h : v < 2 ^ n) : zext n v = v :=
  Nat.mod_eq_of_lt h

theorem fetchAddrFits_iff (c : Config) (pos : Int) :
    fetchAddrFits c pos = true ↔ -(2 ^ (c.fetchAw - 1) : Int) ≤ pos ∧ pos < (2 ^ (c.fetchAw - 1) : Int) := by
  simp [fetchAddrFits]

theorem dataAddrFits_iff (c : Config) (a : Nat) : dataAddrFits c a = true ↔ a < 2 ^ c.lsAw := by
  simp [dataAddrFits]

/-- Whatever is on `fa`, the integer it presents fits it (R53). -/
theorem fetchAddrFits_sval {c : Config} (h : 1 ≤ c.fetchAw) (v : Nat) :
    fetchAddrFits c (sval c.fetchAw v) = true :=
  (fetchAddrFits_iff c _).2 (sval_range v h)

/-- Whatever is on `da`, the integer it presents fits it (R53). -/
theorem dataAddrFits_zext (c : Config) (v : Nat) : dataAddrFits c (zext c.lsAw v) = true :=
  (dataAddrFits_iff c _).2 (Nat.mod_lt v (by positivity))

/-! ## The commands with an address operand (R55) -/

section
variable (c : Config) {r : Request}

theorem decodeRequest_of_op_fetch (h : reqOp r.req = 6) :
    decodeRequest c r = .fetch (sval c.fetchAw r.fa) := by
  simp [decodeRequest, h]

theorem decodeRequest_of_op_loadb (h : reqOp r.req = 7) :
    decodeRequest c r = .loadb (zext c.lsAw r.da) := by
  simp [decodeRequest, h]

theorem decodeRequest_of_op_storeb (h : reqOp r.req = 8) :
    decodeRequest c r = .storeb (zext c.lsAw r.da) (reqD r.req) := by
  simp [decodeRequest, h]

end

/-- Settles O2: by the rows of the command map; `FETCH`, `LOADB` and `STOREB` alone carry an address, and it is
what their bus presents. -/
theorem decodedRequestIsWellFormed : Obligations.DecodedRequestIsWellFormed := by
  intro c r ⟨_, _, _, hfa, _⟩
  unfold decodeRequest
  split
  case h_7 => exact fetchAddrFits_sval hfa r.fa
  case h_8 => exact dataAddrFits_zext c r.da
  case h_9 => exact dataAddrFits_zext c r.da
  all_goals rfl

/-- Settles O4. -/
theorem addressBusesPresentTheirIntegers : Obligations.AddressBusesPresentTheirIntegers := by
  intro c r _ hfa hda
  refine ⟨fun h => ?_, fun h => ?_, fun h => ?_⟩
  · rw [decodeRequest_of_op_fetch c h, sval_of_lt hfa]
  · rw [decodeRequest_of_op_loadb c h, zext_of_lt hda]
  · rw [decodeRequest_of_op_storeb c h, zext_of_lt hda]

end Sys2Proof

namespace Sys2Proof.Machine

/-! ## The draw (log entry 4) -/

theorem State.allocOk_of_draws_cons {s : State} {b : Bool} {ds : List Bool} (h : s.draws = b :: ds) :
    s.allocOk = b := by
  simp [State.allocOk, h]

theorem State.allocOk_of_draws_nil {s : State} (h : s.draws = []) :
    s.allocOk = Config.freeAllocOk s.drawCount := by
  simp [State.allocOk, h]

/-! ## `ALLOC` where it is legal (R66) -/

/-- A legal instruction has the effect its rule gives. -/
theorem exec_of_legal {i : Instr} {s : State} (hf : s.faulted = none)
    (hl : Legal (commandOf i) s.life = true) : exec i s = .next (ruleOf i s) := by
  rw [exec_eq_serve, State.serve_legal hf hl]

theorem legal_alloc_iff (l : Life) : Legal (commandOf .alloc) l = true ↔ l = .unalloc ∨ l = .released :=
  decide_eq_true_iff

theorem exec_alloc_of_allocOk {s : State} (hf : s.faulted = none) (hl : s.life = .unalloc ∨ s.life = .released)
    (hd : s.allocOk = true) :
    exec .alloc s = .next ({ s.afterDraw with mem := Memory.zero, life := .ready }.respond .ok []) := by
  simp [exec_of_legal hf ((legal_alloc_iff _).2 hl), ruleOf, hd]

theorem exec_alloc_of_not_allocOk {s : State} (hf : s.faulted = none)
    (hl : s.life = .unalloc ∨ s.life = .released) (hd : s.allocOk = false) :
    exec .alloc s = .next (s.afterDraw.raise .allocationError) := by
  simp [exec_of_legal hf ((legal_alloc_iff _).2 hl), ruleOf, hd]

/-- Settles O19, by the two outcomes of the draw. -/
theorem allocByTheDraw : Obligations.AllocByTheDraw := by
  intro s hf hl
  refine ⟨fun _ _ => State.allocOk_of_draws_cons, State.allocOk_of_draws_nil, fun hd => ?_, fun hd => ?_⟩
  · exact ⟨_, exec_alloc_of_allocOk hf hl hd, by simp [hf, Memory.wf_zero]⟩
  · exact ⟨_, exec_alloc_of_not_allocOk hf hl hd, by simp [hf]⟩

/-- Settles O20: the state the failed `ALLOC` leaves is again one where `ALLOC` is legal, with `b` the head of its
draws, so the same two outcomes apply to it. -/
theorem retriedAllocTakesTheNextDraw : Obligations.RetriedAllocTakesTheNextDraw := by
  intro s b ds hf hl hds
  have hfirst := exec_alloc_of_not_allocOk hf hl (State.allocOk_of_draws_cons hds)
  have hdraw : (s.afterDraw.raise .allocationError).allocOk = b :=
    State.allocOk_of_draws_cons (ds := ds) (by simp [hds])
  cases b with
  | true => exact ⟨_, _, hfirst, rfl, exec_alloc_of_allocOk hf hl hdraw, by simp [hf, hds]⟩
  | false => exact ⟨_, _, hfirst, rfl, exec_alloc_of_not_allocOk hf hl hdraw, by simp [hf, hds]⟩

end Sys2Proof.Machine
end

section
/-! Proofs: what a run keeps and what it does not read (10_state.md). -/

namespace Sys2Proof.Machine

/-! ## Which instruction is legal where (R101) -/

/-- Without storage the one legal instruction is `ALLOC` (R90, R101). -/
theorem eq_alloc_of_legal {i : Instr} {l : Life} (hl : l = .unalloc ∨ l = .released)
    (h : Legal (commandOf i) l = true) : i = .alloc := by
  rcases hl with rfl | rfl <;> cases i
  case inl.alloc | inr.alloc => rfl
  all_goals cases h

/-! ## What an instruction and a step do, by the check made first (R102, R103) -/

theorem exec_of_faulted {i : Instr} {s : State} {r : ProtocolFault} (h : s.faulted = some r) :
    exec i s = .fault (.protocolFault r) := by
  rw [exec_eq_serve, State.serve_faulted h]

theorem exec_of_illegal {i : Instr} {s : State} {r : ProtocolFault} (hf : s.faulted = none)
    (hr : protocolCheck (commandOf i) s.life = some r) : exec i s = .next (s.recordFault r) := by
  rw [exec_eq_serve, State.serve_illegal hf hr]

theorem State.idle_of_faulted {s : State} {r : ProtocolFault} (h : s.faulted = some r) :
    s.idle = .fault (.protocolFault r) := by
  simp [State.idle, h]

theorem State.idle_of_not_faulted {s : State} (h : s.faulted = none) : s.idle = .next s := by
  simp [State.idle, h]

/-- An instruction after which no fault is recorded was legal, and its rule gives the next state. -/
theorem exec_next_not_faulted {i : Instr} {s t : State} (h : exec i s = .next t) (ht : t.faulted = none) :
    Legal (commandOf i) s.life = true ∧ t = ruleOf i s := by
  obtain ⟨-, hlegal | ⟨-, r, -, rfl⟩⟩ := exec_next h
  · exact hlegal
  · cases ht

/-- Two states that meet the protocol check alike, and that the rule and a recorded fault take to the same state,
are not told apart. -/
theorem exec_congr {i : Instr} {s s' : State} (hf : s'.faulted = s.faulted) (hlife : s'.life = s.life)
    (hrule : Legal (commandOf i) s.life = true → ruleOf i s' = ruleOf i s)
    (hfault : ∀ r, s'.recordFault r = s.recordFault r) : exec i s' = exec i s := by
  cases h : s.faulted with
  | some r => rw [exec_of_faulted h, exec_of_faulted (hf.trans h)]
  | none =>
    cases hl : Legal (commandOf i) s.life with
    | true => rw [exec_of_legal h hl, exec_of_legal (hf.trans h) (by rwa [hlife]), hrule hl]
    | false =>
      obtain ⟨r, hr⟩ := protocolCheck_of_not_legal hl
      rw [exec_of_illegal h hr, exec_of_illegal (hf.trans h) (by rwa [hlife]), hfault r]

/-- All that a step can do, where it gives a next state: nothing, or what the decoded request does. -/
theorem step_next {s t : State} (h : step s = .next t) :
    t = s ∨ ∃ i, exec i s.takeRequest = .next t := by
  cases hr : s.reqs with
  | nil =>
    rw [step_nil hr] at h
    cases hf : s.faulted with
    | some r => rw [State.idle_of_faulted hf] at h; cases h
    | none => rw [State.idle_of_not_faulted hf] at h; cases h; exact .inl rfl
  | cons r rs => exact .inr ⟨_, step_cons hr ▸ h⟩

/-- What is kept when a request is taken, by every legal rule and where a fault is recorded, is kept by every
step. -/
theorem step_keeps {P : State → Prop} {s t : State} (htake : P s → P s.takeRequest)
    (hrule : ∀ (i : Instr) (s : State), s.faulted = none → Legal (commandOf i) s.life = true → P s → P (ruleOf i s))
    (hfault : ∀ (r : ProtocolFault) (s : State), P s → P (s.recordFault r))
    (hs : P s) (h : step s = .next t) : P t := by
  rcases step_next h with rfl | ⟨i, hi⟩
  · exact hs
  · obtain ⟨hf, ⟨hl, rfl⟩ | ⟨-, r, -, rfl⟩⟩ := exec_next hi
    · exact hrule i _ hf hl (htake hs)
    · exact hfault r _ (htake hs)

/-! ## The components a rule leaves as they are (R17, R28) -/

@[simp] theorem ruleOf_cfg (i : Instr) (s : State) : (ruleOf i s).cfg = s.cfg := by
  cases i <;> simp [ruleOf, apply_ite State.cfg]

@[simp] theorem ruleOf_faulted (i : Instr) (s : State) : (ruleOf i s).faulted = s.faulted := by
  cases i <;> simp [ruleOf, apply_ite State.faulted]

@[simp] theorem ruleOf_reqs (i : Instr) (s : State) : (ruleOf i s).reqs = s.reqs := by
  cases i <;> simp [ruleOf, apply_ite State.reqs]

theorem ruleOf_draws {i : Instr} (s : State) (h : i ≠ .alloc) :
    (ruleOf i s).draws = s.draws ∧ (ruleOf i s).drawCount = s.drawCount := by
  cases i
  case alloc => exact absurd rfl h
  all_goals simp [ruleOf, apply_ite State.draws, apply_ite State.drawCount]

theorem ruleOf_snap {i : Instr} (s : State) (h : i ≠ .loadBegin true) : (ruleOf i s).snap = s.snap := by
  cases i
  case loadBegin v => simp [ruleOf, show v = false by simpa using h]
  all_goals simp [ruleOf, apply_ite State.snap]

theorem ruleOf_lcnt {i : Instr} (s : State) (hb : i ≠ .loadBegin true) (hd : ∀ d, i ≠ .loadByte d) :
    (ruleOf i s).lcnt = s.lcnt := by
  cases i
  case loadBegin v => simp [ruleOf, show v = false by simpa using hb]
  case loadByte d => exact absurd rfl (hd d)
  all_goals simp [ruleOf, apply_ite State.lcnt]

/-- The reads, `STOREB`, and `LOAD_BEGIN 0`, which opens no session, leave the lifecycle as it is. -/
theorem ruleOf_life {i : Instr} (s : State)
    (h : (∃ pos, i = .fetch pos) ∨ (∃ a, i = .loadb a) ∨ (∃ a d, i = .storeb a d) ∨ (∃ o a b, i = .insn o a b) ∨
      i = .loadBegin false) : (ruleOf i s).life = s.life := by
  rcases h with ⟨pos, rfl⟩ | ⟨a, rfl⟩ | ⟨a, d, rfl⟩ | ⟨o, a, b, rfl⟩ | rfl <;>
    simp [ruleOf, apply_ite State.life]

/-! ## The storage after a rule (R19, R35, R45) -/

/-- All that a rule can do to `mem`: nothing, `ALLOC`'s zero-fill, one write below `MAX_RAM`, or `LOAD_ABORT`'s
write-back. -/
theorem ruleOf_mem_cases (i : Instr) (s : State) :
    (ruleOf i s).mem = s.mem ∨ (ruleOf i s).mem = Memory.zero ∨
      (∃ a d, a < s.cfg.maxRam ∧ (ruleOf i s).mem = s.mem.write a d) ∨
      (i = .loadAbort ∧ (ruleOf i s).mem = s.mem.restore s.snap s.cfg.maxStack s.lcnt) := by
  cases i
  case alloc =>
    cases h : s.allocOk
    · exact .inl (by simp [ruleOf, h])
    · exact .inr (.inl (by simp [ruleOf, h]))
  case loadByte d =>
    cases h : loadOverflows s
    · have ha : s.loadAddr < s.cfg.maxRam := not_le.1 (of_decide_eq_false h)
      exact .inr (.inr (.inl ⟨s.loadAddr, d, ha, by simp [ruleOf, h]⟩))
    · exact .inl (by simp [ruleOf, h])
  case storeb a d =>
    cases h : dataInRange s.cfg a
    · exact .inl (by simp [ruleOf, h])
    · exact .inr (.inr (.inl ⟨a, d, (dataInRange_iff _ _).1 h, by simp [ruleOf, h]⟩))
  case loadAbort => exact .inr (.inr (.inr ⟨rfl, rfl⟩))
  all_goals exact .inl (by simp [ruleOf, apply_ite State.mem])

/-- Every rule keeps the canonical form. -/
theorem ruleOf_mem_wf (i : Instr) {s : State} (h : s.mem.wf = true) : (ruleOf i s).mem.wf = true := by
  obtain he | he | ⟨a, d, -, he⟩ | ⟨-, he⟩ := ruleOf_mem_cases i s <;> rw [he]
  · exact h
  · exact Memory.wf_zero
  · exact Memory.wf_write _ _ _ h
  · exact Memory.wf_restore _ _ _ _ h

/-- Every rule keeps the bound `MAX_RAM`: that of `LOAD_ABORT` since the session lies below it. -/
theorem ruleOf_mem_within {i : Instr} {s : State} (h : s.mem.within s.cfg.maxRam = true)
    (hsession : i = .loadAbort → s.cfg.maxStack + s.lcnt ≤ s.cfg.maxRam) :
    (ruleOf i s).mem.within s.cfg.maxRam = true := by
  obtain he | he | ⟨a, d, ha, he⟩ | ⟨hi, he⟩ := ruleOf_mem_cases i s <;> rw [he]
  · exact h
  · rfl
  · exact Memory.within_write _ _ _ _ ha h
  · exact Memory.within_restore _ _ _ _ _ (hsession hi) h

/-! ## An open session after a rule (R24, R71) -/

/-- A session is open after a rule where `LOAD_BEGIN 1` has opened it, or a `LOAD_BYTE` that fits has gone on
with it. -/
theorem ruleOf_life_loading {i : Instr} {s : State} (hl : Legal (commandOf i) s.life = true)
    (h : (ruleOf i s).life = .loading) :
    i = .loadBegin true ∨
      (s.life = .loading ∧ s.cfg.maxStack + s.lcnt < s.cfg.maxRam ∧ ∃ d, i = .loadByte d) := by
  cases i
  case loadBegin v =>
    cases v
    · simp_all [ruleOf, commandOf, Legal]
    · exact .inl rfl
  case loadByte d =>
    cases ho : loadOverflows s
    · exact .inr ⟨of_decide_eq_true hl, not_le.1 (of_decide_eq_false ho), d, rfl⟩
    · simp [ruleOf, ho] at h
  case alloc =>
    cases hd : s.allocOk <;> simp_all [ruleOf, commandOf, Legal]
  all_goals simp_all [ruleOf, commandOf, Legal, apply_ite State.life]

/-- A session that opens has written nothing: its snapshot is the storage. -/
theorem sessionOk_ruleOf_loadBegin {s : State} (hstack : s.cfg.maxStack ≤ s.cfg.maxRam)
    (hm : StorageOk s.cfg s.mem) : SessionOk (ruleOf (.loadBegin true) s) :=
  ⟨hstack, hm, fun _ _ => rfl⟩

/-- The byte a session writes lies inside the region it then claims. -/
theorem sessionOk_ruleOf_loadByte {s : State} {d : Byte} (hs : SessionOk s)
    (hfits : s.cfg.maxStack + s.lcnt < s.cfg.maxRam) : SessionOk (ruleOf (.loadByte d) s) := by
  obtain ⟨-, hsnap, heq⟩ := hs
  have ho : loadOverflows s = false := decide_eq_false (not_le.2 hfits)
  simp only [ruleOf, ho, Bool.false_eq_true, if_false]
  refine ⟨hfits, hsnap, fun a ha => ?_⟩
  change a < s.cfg.maxStack ∨ s.cfg.maxStack + (s.lcnt + 1) ≤ a at ha
  calc (s.mem.write s.loadAddr d).read a
      = s.mem.read a := Memory.read_write_other _ _ _ _ (by rw [State.loadAddr_eq]; omega)
    _ = s.snap.read a := heq a (by omega)

/-- A legal rule keeps the invariant: storage and bound by what it does to `mem`, R24 by how a session is open
after it. -/
theorem inv_ruleOf {i : Instr} {s : State} (hf : s.faulted = none) (hl : Legal (commandOf i) s.life = true)
    (hs : Inv s) : Inv (ruleOf i s) := by
  obtain ⟨hc, ⟨hwf, hwithin⟩, hsession⟩ := hs hf
  have habort : i = .loadAbort → s.cfg.maxStack + s.lcnt ≤ s.cfg.maxRam := by
    rintro rfl
    obtain ⟨hbound, -⟩ := hsession (of_decide_eq_true hl)
    exact hbound
  refine fun _ => ⟨by rwa [ruleOf_cfg], ⟨ruleOf_mem_wf i hwf, ?_⟩, fun hopen => ?_⟩
  · rw [ruleOf_cfg]
    exact ruleOf_mem_within hwithin habort
  · obtain rfl | ⟨hload, hfits, d, rfl⟩ := ruleOf_life_loading hl hopen
    · obtain ⟨-, hstack, -⟩ := hc
      exact sessionOk_ruleOf_loadBegin hstack ⟨hwf, hwithin⟩
    · exact sessionOk_ruleOf_loadByte (hsession hload) hfits

theorem inv_resetWith {c : Config} (hc : c.Valid) : Inv (State.resetWith c) :=
  fun _ => ⟨hc, ⟨rfl, rfl⟩, fun h => by cases h⟩

/-- Settles O55: a recorded fault leaves nothing to show, and `inv_ruleOf` is the legal case. -/
theorem stepKeepsTheInvariant : Obligations.StepKeepsTheInvariant := by
  intro s t hs h
  exact step_keeps (P := Inv) id (fun _ _ => inv_ruleOf) (fun _ _ _ hf => by cases hf) hs h

/-- Settles O54. -/
theorem resetMeetsTheInvariant : Obligations.ResetMeetsTheInvariant :=
  ⟨inv_resetWith (by decide), fun _ => inv_resetWith⟩

/-- Settles O56. -/
theorem stepKeepsStorageCanonical : Obligations.StepKeepsStorageCanonical := by
  intro s t hs h
  exact step_keeps (P := fun u => u.mem.wf = true) id (fun i _ _ _ => ruleOf_mem_wf i) (fun _ _ => id) hs h

/-- Settles O49: no rule and no recorded fault writes `cfg`, and the outputs are read from it. -/
theorem configurationIsConstant : Obligations.ConfigurationIsConstant := by
  refine ⟨fun c => ⟨rfl, rfl⟩, fun s t h => ?_⟩
  have hcfg : t.cfg = s.cfg :=
    step_keeps (P := fun u => u.cfg = s.cfg) id (fun i u _ _ hu => (ruleOf_cfg i u).trans hu) (fun _ _ => id) rfl h
  exact ⟨hcfg, congrArg Config.maxRam hcfg, congrArg Config.maxStack hcfg⟩

/-- Settles O48, component by component. -/
theorem componentFrame : Obligations.ComponentFrame := by
  intro i s t h ht
  obtain ⟨-, rfl⟩ := exec_next_not_faulted h ht
  exact ⟨ruleOf_cfg i s, ruleOf_reqs i s, ruleOf_draws s, ruleOf_snap s, ruleOf_lcnt s, ruleOf_life s⟩

/-- Settles O28: inside the session's addresses the write-back reads as the snapshot, outside them R24 says `mem`
already did; both are canonical, so they are the same storage. -/
theorem loadAbortRestoresTheStorage : Obligations.LoadAbortRestoresTheStorage := by
  intro s t hs hlife h
  obtain ⟨hf, ⟨-, rfl⟩ | ⟨hillegal, -⟩⟩ := exec_next h
  · obtain ⟨-, ⟨hwf, -⟩, hsession⟩ := hs hf
    obtain ⟨-, ⟨hsnap, -⟩, heq⟩ := hsession hlife
    refine Memory.ext_of_wf (ruleOf_mem_wf .loadAbort hwf) hsnap fun a => ?_
    refine (Memory.read_restore s.mem s.snap s.cfg.maxStack s.lcnt a).trans ?_
    split
    · rfl
    · exact heq a (by omega)
  · simp [commandOf, Legal, hlife] at hillegal

/-! ## Reset, protocol faults and the end of a run (R23, R32, R102, R121) -/

theorem step_of_faulted {s : State} {r : ProtocolFault} (h : s.faulted = some r) :
    step s = .fault (.protocolFault r) := by
  cases hr : s.reqs with
  | nil => rw [step_nil hr, State.idle_of_faulted h]
  | cons q qs => rw [step_cons hr, exec_of_faulted (s := s.takeRequest) h]

/-- Settles O15. -/
theorem faultedStateHasNoStep : Obligations.FaultedStateHasNoStep :=
  fun _ _ h => ⟨fun _ => exec_of_faulted h, step_of_faulted h⟩

/-- Settles O53, by the states in which a run has ended. -/
theorem endedRunChangesNothing : Obligations.EndedRunChangesNothing := by
  intro s e h
  obtain ⟨r, hf, rfl⟩ | ⟨hf, hr, p, -, hend⟩ := State.runEnd_some h
  · refine ⟨fun reason he => ?_, fun hne => absurd rfl (hne r)⟩
    cases he
    exact step_of_faulted hf
  · refine ⟨fun reason he => ?_, fun _ => ⟨hf, by rw [step_nil hr, State.idle_of_not_faulted hf]⟩⟩
    obtain ⟨-, -, rfl⟩ | ⟨-, rfl⟩ := hend <;> cases he

/-- Settles O17: `ALLOC` is legal in `UNALLOC` and its rule records no fault, whatever the draw; every other
instruction is illegal there. -/
theorem resetAdmitsOnlyAlloc : Obligations.ResetAdmitsOnlyAlloc := by
  intro c
  refine ⟨rfl, rfl, rfl, rfl, ⟨_, exec_of_legal rfl rfl, ruleOf_faulted .alloc _⟩, fun i t hi h ht => hi ?_⟩
  exact eq_alloc_of_legal (.inl rfl) (exec_next_not_faulted h ht).1

/-! ## What is not read: an earlier response (R27, R98) -/

theorem ruleOf_ignores_resp {i : Instr} {s : State} (p : Option Response)
    (hl : Legal (commandOf i) s.life = true) : ruleOf i { s with resp := p } = ruleOf i s := by
  cases i
  case reservedOp9 | reservedOp10 | reservedOp11 | reservedOp12 | reservedOp13 | reservedOp14 | reservedOp15 =>
    cases hl
  all_goals rfl

theorem exec_ignores_resp (i : Instr) (s : State) (p : Option Response) :
    exec i { s with resp := p } = exec i s :=
  exec_congr rfl rfl (ruleOf_ignores_resp p) fun _ => rfl

theorem step_ignores_resp {s : State} (p : Option Response) (h : s.reqs ≠ []) :
    step { s with resp := p } = step s := by
  obtain ⟨r, rs, hr⟩ := List.exists_cons_of_ne_nil h
  rw [step_cons hr, step_cons (s := { s with resp := p }) hr]
  exact exec_ignores_resp _ s.takeRequest p

/-- Settles O46: the first step already gives the same outcome. -/
theorem earlierResponsesAreNotRead : Obligations.EarlierResponsesAreNotRead := by
  intro s p n h
  rw [stepN, stepN, step_ignores_resp p h]

/-! ## What is not read: `lcnt` and `snap` outside a session (R21, R22) -/

/-- The state with other values of what has a meaning in a session only. -/
def State.withSession (n : Nat) (m : Memory) (s : State) : State := { s with lcnt := n, snap := m }

/-- A rule that is legal outside a session carries `lcnt` and `snap` along unread, but for `LOAD_BEGIN 1`, which
sets both. -/
theorem ruleOf_withSession {i : Instr} {s : State} (n : Nat) (m : Memory) (hl : Legal (commandOf i) s.life = true)
    (hlife : s.life ≠ .loading) (hopen : i ≠ .loadBegin true) :
    ruleOf i (s.withSession n m) = (ruleOf i s).withSession n m := by
  cases i
  case loadByte | loadEnd | loadAbort => exact absurd (of_decide_eq_true hl) hlife
  case reservedOp9 | reservedOp10 | reservedOp11 | reservedOp12 | reservedOp13 | reservedOp14 | reservedOp15 =>
    cases hl
  case release | insn => rfl
  case loadBegin v =>
    cases v
    · rfl
    · exact absurd rfl hopen
  all_goals
    simp only [ruleOf, apply_ite (State.withSession n m)]
    rfl

/-- Settles O50: `LOAD_BEGIN 1`, which opens the session, sets both, and every other rule carries them along. -/
theorem sessionStateIsNotReadOutsideASession : Obligations.SessionStateIsNotReadOutsideASession := by
  intro i s t n m hlife h
  obtain ⟨hf, ⟨hl, rfl⟩ | ⟨-, r, hr, rfl⟩⟩ := exec_next h
  · refine ⟨_, exec_of_legal (s := s.withSession n m) hf hl, ?_⟩
    by_cases hbegin : i = .loadBegin true
    · subst hbegin
      exact ⟨rfl, fun _ => rfl⟩
    · rw [ruleOf_withSession n m hl hlife hbegin]
      refine ⟨rfl, fun hopen => ?_⟩
      obtain rfl | ⟨hload, -⟩ := ruleOf_life_loading hl hopen
      · exact absurd rfl hbegin
      · exact absurd hload hlife
  · exact ⟨_, exec_of_illegal (s := s.withSession n m) hf hr, rfl, fun hopen => absurd hopen hlife⟩

/-! ## What is not read: `mem` without storage (R20, R69) -/

/-- Settles O51: `ALLOC` alone is legal there; where it succeeds it replaces the whole storage, and where it fails
it does not reach `READY`. -/
theorem contentsAreNotReadWithoutStorage : Obligations.ContentsAreNotReadWithoutStorage := by
  intro i s t m hlife h
  have hready : s.life ≠ .ready := by rcases hlife with e | e <;> simp [e]
  obtain ⟨hf, ⟨hl, -⟩ | ⟨-, r, hr, rfl⟩⟩ := exec_next h
  · obtain rfl := eq_alloc_of_legal hlife hl
    cases hd : s.allocOk with
    | true =>
      cases (exec_alloc_of_allocOk hf hlife hd).symm.trans h
      exact ⟨_, exec_alloc_of_allocOk (s := { s with mem := m }) hf hlife hd, rfl, fun _ => rfl⟩
    | false =>
      cases (exec_alloc_of_not_allocOk hf hlife hd).symm.trans h
      exact ⟨_, exec_alloc_of_not_allocOk (s := { s with mem := m }) hf hlife hd, rfl, fun h => absurd h hready⟩
  · exact ⟨_, exec_of_illegal (s := { s with mem := m }) hf hr, rfl, fun h => absurd h hready⟩

end Sys2Proof.Machine
end

section
/-! Proofs: storage as the ports see it, the frame of every instruction and what a fetch reads (20_memory.md). -/

namespace Sys2Proof.Machine

/-! ## The byte at an address after a rule and after a run (R35, R45) -/

/-- The frame of storage: a rule keeps the byte at every address it does not write, the writers being `ALLOC`,
`LOAD_BYTE`, `LOAD_ABORT` and `STOREB`. -/
theorem ruleOf_mem_read {i : Instr} {s : State} {a : Nat} (h : writesAt i s a = false) :
    (ruleOf i s).mem.read a = s.mem.read a := by
  cases i
  case alloc =>
    have hd : s.allocOk = false := h
    simp [ruleOf, hd]
  case loadByte d =>
    cases ho : loadOverflows s
    · have hne : a ≠ s.loadAddr := by
        simpa only [writesAt, ho, Bool.not_false, Bool.true_and, decide_eq_false_iff_not] using h
      simpa [ruleOf, ho] using Memory.read_write_other s.mem _ _ d hne
    · simp [ruleOf, ho]
  case storeb b d =>
    cases hb : dataInRange s.cfg b
    · simp [ruleOf, hb]
    · have hne : a ≠ b := by simpa [writesAt, hb] using h
      simpa [ruleOf, hb] using Memory.read_write_other s.mem _ _ d hne
  case loadAbort =>
    have hout : ¬ (s.cfg.maxStack ≤ a ∧ a < s.cfg.maxStack + s.lcnt) := by simpa [writesAt] using h
    exact (Memory.read_restore _ _ _ _ _).trans (if_neg hout)
  all_goals simp [ruleOf, apply_ite State.mem]

theorem ruleOf_storeb_mem {s : State} {a : Nat} (d : Byte) (h : a < s.cfg.maxRam) :
    (ruleOf (.storeb a d) s).mem = s.mem.write a d := by
  simp [ruleOf, (dataInRange_iff _ _).2 h]

theorem ruleOf_loadByte_mem {s : State} (d : Byte) (h : s.cfg.maxStack + s.lcnt < s.cfg.maxRam) :
    (ruleOf (.loadByte d) s).mem = s.mem.write (s.cfg.maxStack + s.lcnt) d := by
  have ho : loadOverflows s = false := decide_eq_false (not_le.2 h)
  simp [ruleOf, ho]

/-- A run that ends with no fault recorded started with none. -/
theorem RunsWithoutWriting.not_faulted {a : Nat} {is : List Instr} {s u : State}
    (h : RunsWithoutWriting a is s u) (hu : u.faulted = none) : s.faulted = none := by
  cases is with
  | nil =>
    obtain rfl : u = s := h
    exact hu
  | cons i is =>
    obtain ⟨-, t, hexec, -⟩ := h
    exact (exec_next hexec).1

/-- What every rule that does not write `a` keeps, a run that does not write `a` keeps. -/
theorem RunsWithoutWriting.keeps {P : State → Prop} {a : Nat} {is : List Instr} {s u : State}
    (h : RunsWithoutWriting a is s u) (hu : u.faulted = none)
    (hrule : ∀ (i : Instr) (s : State), writesAt i s a = false → P s → P (ruleOf i s)) (hs : P s) : P u := by
  induction is generalizing s with
  | nil =>
    obtain rfl : u = s := h
    exact hs
  | cons i is ih =>
    obtain ⟨hw, t, hexec, hrun⟩ := h
    obtain ⟨-, rfl⟩ := exec_next_not_faulted hexec (hrun.not_faulted hu)
    exact ih hrun (hrule i s hw hs)

theorem RunsWithoutWriting.mem_read {a : Nat} {is : List Instr} {s u : State}
    (h : RunsWithoutWriting a is s u) (hu : u.faulted = none) : u.mem.read a = s.mem.read a :=
  h.keeps (P := fun u => u.mem.read a = s.mem.read a) hu (fun _ _ hw ht => (ruleOf_mem_read hw).trans ht) rfl

theorem RunsWithoutWriting.cfg {a : Nat} {is : List Instr} {s u : State}
    (h : RunsWithoutWriting a is s u) (hu : u.faulted = none) : u.cfg = s.cfg :=
  h.keeps (P := fun u => u.cfg = s.cfg) hu (fun i t _ ht => (ruleOf_cfg i t).trans ht) rfl

/-- Settles O47. -/
theorem storageFrame : Obligations.StorageFrame := by
  intro i s t a h ht hw
  obtain ⟨-, rfl⟩ := exec_next_not_faulted h ht
  exact ruleOf_mem_read hw

/-! ## `FETCH` in range (R80) -/

theorem exec_fetch_of_inRange {s : State} {pos : Int} (hf : s.faulted = none) (hl : s.life = .ready)
    (h0 : 0 ≤ pos) (h2 : pos + 2 < s.cfg.maxRam) :
    exec (.fetch pos) s = .next (s.decoderOutput (s.mem.read pos.toNat) (s.mem.read (pos.toNat + 1))
      (s.mem.read (pos.toNat + 2))) := by
  have ho : ¬ fetchOverflows s.cfg pos = true := by
    rw [fetchOverflows_iff]
    omega
  rw [exec_of_legal (i := .fetch pos) hf (decide_eq_true hl)]
  exact congrArg Host.Outcome.next (if_neg ho)

/-- Settles O32. -/
theorem fetchReturnsTheThreeBytes : Obligations.FetchReturnsTheThreeBytes :=
  fun _ _ => exec_fetch_of_inRange

/-- Of the three bytes from `n` on, the one in place `k` is the byte at `n + k`. -/
theorem getElem?_three_bytes (m : Memory) (n : Nat) {k : Nat} (hk : k < 3) :
    [m.read n, m.read (n + 1), m.read (n + 2)][k]? = some (m.read (n + k)) := by
  interval_cases k <;> rfl

/-- Settles O41: the write puts `v` at `a`, the run keeps it there, and `a` is the address in place `a - pos`. -/
theorem storedByteIsFetched : Obligations.StoredByteIsFetched := by
  intro s t u i a v is pos hi h ht hrun hu hlife h0 h2 hlo hhi
  obtain ⟨-, rfl⟩ := exec_next_not_faulted h ht
  have hwritten : (ruleOf i s).mem.read a = v := by
    obtain ⟨rfl, ha⟩ | ⟨rfl, rfl, ha⟩ := hi
    · rw [ruleOf_storeb_mem v ha, Memory.read_write_same]
    · rw [ruleOf_loadByte_mem v ha, Memory.read_write_same]
  have hread : u.mem.read a = v := (hrun.mem_read hu).trans hwritten
  have hplace : pos.toNat + ((a : Int) - pos).toNat = a := by omega
  refine ⟨_, _, exec_fetch_of_inRange hu hlife h0 h2, rfl, ?_⟩
  rw [getElem?_three_bytes u.mem pos.toNat (by omega), hplace, hread]

/-! ## Reads have no side effects (R43) -/

section
variable {i : Instr} (hi : (∃ pos, i = .fetch pos) ∨ ∃ a, i = .loadb a)
include hi

/-- A read changes the response port only. -/
theorem ruleOf_read (s : State) : ruleOf i s = { s with resp := (ruleOf i s).resp } := by
  obtain ⟨pos, rfl⟩ | ⟨a, rfl⟩ := hi <;> simp only [ruleOf] <;> split <;> rfl

/-- A read's response is determined by the parameters and the bytes of the storage. -/
theorem ruleOf_read_resp_congr {s u : State} (hcfg : u.cfg = s.cfg) (hread : ∀ a, u.mem.read a = s.mem.read a) :
    (ruleOf i u).resp = (ruleOf i s).resp := by
  obtain ⟨pos, rfl⟩ | ⟨a, rfl⟩ := hi <;> simp [ruleOf, hcfg, hread, apply_ite State.resp]

theorem legal_read_of_ready {l : Life} (hl : l = .ready) : Legal (commandOf i) l = true := by
  obtain ⟨pos, rfl⟩ | ⟨a, rfl⟩ := hi <;> exact decide_eq_true hl

end

/-- Settles O42: neither the read nor the run changes a byte or the parameters, and a read's response depends on
nothing else. -/
theorem readsHaveNoSideEffects : Obligations.ReadsHaveNoSideEffects := by
  intro s t i hi h ht
  obtain ⟨-, rfl⟩ := exec_next_not_faulted h ht
  have hsame := ruleOf_read hi s
  refine ⟨hsame, fun is u hrun hu hlife => ⟨_, exec_of_legal hu (legal_read_of_ready hi hlife), ?_⟩⟩
  refine ruleOf_read_resp_congr hi (((hrun 0).cfg hu).trans (ruleOf_cfg i s)) fun a => ?_
  exact ((hrun a).mem_read hu).trans (by rw [hsame])

/-! ## An instruction placed in storage (log entry 12; R37, R60) -/

/-- `bytesOfPacked` takes the packing of R60 apart. -/
theorem bytesOfPacked_of_bytes (o a b : Byte) :
    bytesOfPacked (o.toNat * 2 ^ 16 + a.toNat * 2 ^ 8 + b.toNat) = [o, a, b] := by
  have ho := o.isLt
  have ha := a.isLt
  have hb := b.isLt
  have h1 : (o.toNat * 2 ^ 16 + a.toNat * 2 ^ 8 + b.toNat) / 2 ^ 16 = o.toNat := by omega
  have h2 : (o.toNat * 2 ^ 16 + a.toNat * 2 ^ 8 + b.toNat) / 2 ^ 8 = o.toNat * 2 ^ 8 + a.toNat := by omega
  have e2 : BitVec.ofNat 8 (o.toNat * 2 ^ 8 + a.toNat) = a := BitVec.eq_of_toNat_eq (by simp; omega)
  have e3 : BitVec.ofNat 8 (o.toNat * 2 ^ 16 + a.toNat * 2 ^ 8 + b.toNat) = b :=
    BitVec.eq_of_toNat_eq (by simp; omega)
  rw [bytesOfPacked, h1, h2, e2, e3, BitVec.ofNat_toNat, BitVec.setWidth_eq]

/-- Three bytes fit at the slot. -/
theorem insnSlot_add_two_lt {c : Config} (h : 3 ≤ c.maxRam) : insnSlot c + 2 < c.maxRam := by
  unfold insnSlot
  omega

/-- The bus value on the port presents the slot's own address (R10, R53). -/
theorem sval_insnSlot {c : Config} (hc : c.Valid) (h : 3 ≤ c.maxRam) :
    sval c.fetchAw (busOfInt c.fetchAw (insnSlot c)) = insnSlot c := by
  obtain ⟨-, -, -, hfa, hram⟩ := hc
  have hslot := insnSlot_add_two_lt h
  have hpow : ((2 ^ (c.fetchAw - 1) : Nat) : Int) = 2 ^ (c.fetchAw - 1) := by push_cast; rfl
  exact sval_busOfInt _ hfa (by omega) (by omega)

theorem step_presentInsn {s : State} (bs : List Byte) (hc : s.cfg.Valid) (h : 3 ≤ s.cfg.maxRam) :
    step (s.presentInsn bs) = exec (.fetch (insnSlot s.cfg)) (s.presentInsn bs).takeRequest := by
  rw [step_cons (s := s.presentInsn bs) rfl, decodeRequest_of_op_fetch _ (by simp)]
  exact congrArg (fun pos => exec (.fetch pos) _) (sval_insnSlot hc h)

/-- Settles O11: the step is a `FETCH` of the slot, and the later bytes are placed above the earlier ones. -/
theorem placedInstructionIsFetched : Obligations.PlacedInstructionIsFetched := by
  intro s o a b hc h3 hf
  have hslot := insnSlot_add_two_lt h3
  have hfetch : exec (.fetch (insnSlot s.cfg)) (s.presentInsn [o, a, b]).takeRequest = .next _ :=
    exec_fetch_of_inRange hf rfl (by omega) (show (insnSlot s.cfg : Int) + 2 < s.cfg.maxRam by omega)
  rw [State.withFetchWord, if_pos rfl, bytesOfPacked_of_bytes, step_presentInsn _ hc h3]
  refine ⟨_, hfetch, ?_, hf⟩
  simp [State.presentInsn, Memory.place, Memory.read_write, Nat.add_assoc]

end Sys2Proof.Machine
end

section
/-! Proofs: the encoding, the step on a request and what a response carries (30_encoding.md). -/

namespace Sys2Proof

/-! ## Decoding undoes encoding (R52, R55, R60) -/

/-- The request that carries a command decodes to it: the word gives back its fields, and a bus value the integer
that fits the bus. -/
theorem decodeRequest_encodeRequest {c : Config} {i : Instr} {r : Request} (hc : c.Valid)
    (hi : i.wellFormed c = true) (h : encodeRequest c i = some r) : decodeRequest c r = i := by
  cases i
  case insn => cases h
  case fetch pos =>
    obtain rfl := Option.some.inj h
    obtain ⟨-, -, -, hfa, -⟩ := hc
    obtain ⟨hlo, hhi⟩ := (fetchAddrFits_iff c pos).1 hi
    rw [decodeRequest_of_op_fetch c (by simp), sval_busOfInt pos hfa hlo hhi]
  case loadb a =>
    obtain rfl := Option.some.inj h
    rw [decodeRequest_of_op_loadb c (by simp), zext_of_lt ((dataAddrFits_iff c a).1 hi)]
  case storeb a d =>
    obtain rfl := Option.some.inj h
    rw [decodeRequest_of_op_storeb c (by simp), zext_of_lt ((dataAddrFits_iff c a).1 hi), reqD_reqWord]
  all_goals
    obtain rfl := Option.some.inj h
    simp [decodeRequest]

/-- Only the three-byte instruction is no command. -/
theorem eq_insn_of_encodeRequest_eq_none {c : Config} {i : Instr} (h : encodeRequest c i = none) :
    ∃ o a b, i = .insn o a b := by
  cases i
  case insn o a b => exact ⟨o, a, b, rfl⟩
  all_goals cases h

/-- Settles O1: a command comes back from its request, and `INSN` from its three bytes. -/
theorem decodeOfEncode : Obligations.DecodeOfEncode := by
  intro c i hc hi
  unfold encode
  cases h : encodeRequest c i with
  | some r => exact congrArg Except.ok (decodeRequest_encodeRequest hc hi h)
  | none =>
    obtain ⟨o, a, b, rfl⟩ := eq_insn_of_encodeRequest_eq_none h
    rfl

/-! ## The rows of the opcode table (R60, R62) -/

/-- Settles O5: the packed word has 24 bits, and taking it apart gives the three bytes. -/
theorem everyInstructionPatternDecodes : Obligations.EveryInstructionPatternDecodes := by
  intro o a b
  have ho := o.isLt
  have ha := a.isLt
  have hb := b.isLt
  have hwidth : o.toNat * 2 ^ 16 + a.toNat * 2 ^ 8 + b.toNat < 2 ^ 24 := by omega
  rw [decodeTableWord, decodeTable, if_pos rfl, if_pos hwidth, Machine.bytesOfPacked_of_bytes]
  rfl

/-- A 16-bit row of the table is read by the request decoder. -/
theorem decodeRequest_of_decodeTableWord {w : Nat} {i : Instr} (h : decodeTableWord 16 w = some i) :
    decodeRequest Config.rc1 (requestOfWord w) = i := by
  rw [decodeTableWord, decodeTable, if_neg (by decide), if_pos (by decide)] at h
  split at h
  case isTrue => exact Option.some.inj h
  case isFalse => cases h

/-- Settles O6: the seven words are numerals, and the decoder is evaluated on them. -/
theorem exampleWordsDecode : Obligations.ExampleWordsDecode := by
  unfold Obligations.ExampleWordsDecode
  decide

/-! ## What the command map reads (R55, R56) -/

/-- Each row reads the fields R55 lists for it and no other. -/
theorem decodeRequest_congr (c : Config) {r r' : Request} (hop : reqOp r.req = reqOp r'.req)
    (hv : reqOp r.req = 2 → reqV r.req = reqV r'.req)
    (hd : reqOp r.req = 3 ∨ reqOp r.req = 8 → reqD r.req = reqD r'.req)
    (hfa : reqOp r.req = 6 → r.fa = r'.fa)
    (hda : reqOp r.req = 7 ∨ reqOp r.req = 8 → r.da = r'.da) : decodeRequest c r = decodeRequest c r' := by
  unfold decodeRequest
  rw [← hop]
  split
  case h_3 h => rw [hv (BitVec.eq_of_toNat_eq h)]
  case h_4 h => rw [hd (.inl (BitVec.eq_of_toNat_eq h))]
  case h_7 h => rw [hfa (BitVec.eq_of_toNat_eq h)]
  case h_8 h => rw [hda (.inl (BitVec.eq_of_toNat_eq h))]
  case h_9 h =>
    have hop8 : reqOp r.req = 8 := BitVec.eq_of_toNat_eq h
    rw [hda (.inr hop8), hd (.inr hop8)]
  all_goals rfl

theorem sval_zero (n : Nat) : sval n 0 = 0 := by
  simp [sval]

theorem zext_zero (n : Nat) : zext n 0 = 0 :=
  Nat.zero_mod _

/-- With zero buses the parameters, which are the buses' widths, do not matter (log entry 10). -/
theorem decodeRequest_requestOfWord (c c' : Config) (w : Nat) :
    decodeRequest c (requestOfWord w) = decodeRequest c' (requestOfWord w) := by
  simp only [decodeRequest, requestOfWord, sval_zero, zext_zero]

end Sys2Proof

namespace Sys2Proof.Machine

/-! ## The step on a request (R51) -/

/-- Settles O7. -/
theorem stepRunsTheDecodedRequest : Obligations.StepRunsTheDecodedRequest := by
  intro s r rs h
  rw [step_cons h, State.takeRequest, h, List.tail_cons]

/-- Settles O8. -/
theorem noRequestNoChange : Obligations.NoRequestNoChange := by
  intro s hr hf
  rw [step_nil hr, State.idle_of_not_faulted hf]

/-- Settles O3: the two requests decode to the same instruction, and taking either leaves the same state. -/
theorem unreadRequestFieldsAreIgnored : Obligations.UnreadRequestFieldsAreIgnored := by
  intro s r r' rs hop hv hd hfa hda
  rw [stepRunsTheDecodedRequest _ r rs rfl, stepRunsTheDecodedRequest _ r' rs rfl,
    decodeRequest_congr s.cfg hop hv hd hfa hda]

/-- Settles O10: the step decodes the word under the state's own parameters, the table under RC1; with zero buses
that is the same instruction. -/
theorem placedRequestWordIsPerformed : Obligations.PlacedRequestWordIsPerformed := by
  intro s w i h
  obtain rfl := decodeRequest_of_decodeTableWord h
  rw [State.withFetchWord, if_neg (by decide), decodeRequest_requestOfWord Config.rc1 s.cfg]
  exact stepRunsTheDecodedRequest (s.present (requestOfWord w)) _ _ rfl

/-! ## What a response carries (R54, R58) -/

/-- Every legal rule answers; only `FETCH`, `LOADB` and the decoder answer with data, and then with `OK`. -/
theorem ruleOf_answers {i : Instr} {s : State} (hl : Legal (commandOf i) s.life = true) :
    ∃ p, (ruleOf i s).resp = some p ∧ (p.data = [] ∨ p.status = .ok ∧
      ((∃ pos, i = .fetch pos ∧
          p.data = [s.mem.read pos.toNat, s.mem.read (pos.toNat + 1), s.mem.read (pos.toNat + 2)]) ∨
        (∃ a, i = .loadb a ∧ p.data = [s.mem.read a]) ∨
        ∃ o a b, i = .insn o a b ∧ p.data = [o, a, b])) := by
  cases i
  case reservedOp9 | reservedOp10 | reservedOp11 | reservedOp12 | reservedOp13 | reservedOp14 | reservedOp15 =>
    cases hl
  case insn o a b => exact ⟨_, rfl, .inr ⟨rfl, .inr (.inr ⟨o, a, b, rfl, rfl⟩)⟩⟩
  case fetch pos =>
    simp only [ruleOf]
    split
    · exact ⟨_, rfl, .inl rfl⟩
    · exact ⟨_, rfl, .inr ⟨rfl, .inl ⟨pos, rfl, rfl⟩⟩⟩
  case loadb a =>
    simp only [ruleOf]
    split
    · exact ⟨_, rfl, .inr ⟨rfl, .inr (.inl ⟨a, rfl, rfl⟩)⟩⟩
    · exact ⟨_, rfl, .inl rfl⟩
  case release | loadEnd | loadAbort => exact ⟨_, rfl, .inl rfl⟩
  case alloc | loadBegin | loadByte | storeb =>
    simp only [ruleOf]
    split <;> exact ⟨_, rfl, .inl rfl⟩

/-- Settles O12: the protocol check passes or records the fault of its cell; either way there is a next state. -/
theorem everyRequestIsAnsweredInOneStep : Obligations.EveryRequestIsAnsweredInOneStep := by
  intro s r rs hf hr
  rw [stepRunsTheDecodedRequest s r rs hr]
  cases hl : Legal (commandOf (decodeRequest s.cfg r)) s.life with
  | true =>
    obtain ⟨p, hp, -⟩ := ruleOf_answers (s := { s with reqs := rs }) hl
    exact ⟨_, exec_of_legal hf hl, ruleOf_reqs _ _, fun _ => ⟨(ruleOf_faulted _ _).trans hf, p, hp⟩⟩
  | false =>
    obtain ⟨reason, hreason⟩ := protocolCheck_of_not_legal hl
    exact ⟨_, exec_of_illegal hf hreason, rfl, fun h => absurd h (by decide)⟩

/-- Settles O44: a recorded protocol fault presents no response, so the request was legal. -/
theorem onlySuccessfulReadsCarryData : Obligations.OnlySuccessfulReadsCarryData := by
  intro s t i p h hp hdata
  obtain ⟨-, ⟨hl, rfl⟩ | ⟨-, r, -, rfl⟩⟩ := exec_next h
  · obtain ⟨q, hq, hcase⟩ := ruleOf_answers hl
    cases hq.symm.trans hp
    exact hcase.resolve_left hdata
  · cases hp

/-! ## Single instructions -/

/-- The protocol check fails for a reserved `op` in every `life` (R55, R101). -/
theorem exec_of_reserved {i : Instr} {s : State} (hi : commandOf i = .reserved) (hf : s.faulted = none) :
    exec i s = .next (s.recordFault .reservedOp) :=
  exec_of_illegal hf (by rw [hi, protocolCheck])

/-- Settles O14. -/
theorem reservedOpsRecordTheFault : Obligations.ReservedOpsRecordTheFault :=
  fun _ hf => ⟨exec_of_reserved rfl hf, exec_of_reserved rfl hf, exec_of_reserved rfl hf, exec_of_reserved rfl hf,
    exec_of_reserved rfl hf, exec_of_reserved rfl hf, exec_of_reserved rfl hf⟩

/-- Settles O35. -/
theorem instructionIsPutOutRaw : Obligations.InstructionIsPutOutRaw :=
  fun _ o a b hf hl => exec_of_legal (i := .insn o a b) hf (decide_eq_true hl)

/-- Settles O36. -/
theorem loadbReturnsTheByte : Obligations.LoadbReturnsTheByte := by
  intro s a hf hl ha
  rw [exec_of_legal hf (legal_read_of_ready (.inr ⟨a, rfl⟩) hl)]
  exact congrArg Host.Outcome.next (if_pos ((dataInRange_iff _ _).2 ha))

end Sys2Proof.Machine
end

section
/-! Proofs: a failed `ALLOC`, and the zeros of fresh storage (40_allocation.md). -/

namespace Sys2Proof.Machine

/-! ## The two answers of `ALLOC` (R66) -/

/-- An `ALLOC` that answers was legal, and its answer tells which of its two outcomes it had; a recorded protocol
fault presents no response. -/
theorem exec_alloc_answered {s t : State} {p : Response} (h : exec .alloc s = .next t) (hp : t.resp = some p) :
    (s.life = .unalloc ∨ s.life = .released) ∧
      ((p.status = .ok ∧ t = { s.afterDraw with mem := Memory.zero, life := .ready }.respond .ok []) ∨
        (p.status = .allocationError ∧ t = s.afterDraw.raise .allocationError)) := by
  obtain ⟨hf, ⟨hl, -⟩ | ⟨-, r, -, rfl⟩⟩ := exec_next h
  · have hlife := (legal_alloc_iff _).1 hl
    refine ⟨hlife, ?_⟩
    cases hd : s.allocOk with
    | true =>
      cases (exec_alloc_of_allocOk hf hlife hd).symm.trans h
      cases hp
      exact .inl ⟨rfl, rfl⟩
    | false =>
      cases (exec_alloc_of_not_allocOk hf hlife hd).symm.trans h
      cases hp
      exact .inr ⟨rfl, rfl⟩
  · cases hp

/-- Settles O21: the state a failed `ALLOC` leaves still has no storage, where `ALLOC` alone is legal. -/
theorem failedAllocLeavesNoStorage : Obligations.FailedAllocLeavesNoStorage := by
  intro s t h hp
  obtain ⟨hlife, ⟨hok, -⟩ | ⟨-, rfl⟩⟩ := exec_alloc_answered h hp
  · cases hok
  · refine ⟨rfl, hlife, rfl, fun i u hi hexec hu => hi ?_⟩
    obtain ⟨hlegal, -⟩ := exec_next_not_faulted hexec hu
    exact eq_alloc_of_legal hlife hlegal

/-! ## What a run keeps (R51, R102) -/

/-- A run that ends with no fault recorded started with none. -/
theorem Runs.not_faulted {is : List Instr} {s u : State} (h : Runs is s u) (hu : u.faulted = none) :
    s.faulted = none := by
  cases is with
  | nil =>
    obtain rfl : u = s := h
    exact hu
  | cons i is =>
    obtain ⟨t, hexec, -⟩ := h
    exact (exec_next hexec).1

/-- What every legal rule of a run's instructions keeps, the run keeps, where it ends with no fault recorded. -/
theorem Runs.keeps {P : State → Prop} {is : List Instr} {s u : State} (h : Runs is s u) (hu : u.faulted = none)
    (hrule : ∀ i ∈ is, ∀ s : State, Legal (commandOf i) s.life = true → P s → P (ruleOf i s)) (hs : P s) : P u := by
  induction is generalizing s with
  | nil =>
    obtain rfl : u = s := h
    exact hs
  | cons i is ih =>
    obtain ⟨t, hexec, hrun⟩ := h
    obtain ⟨hl, rfl⟩ := exec_next_not_faulted hexec (hrun.not_faulted hu)
    exact ih hrun (fun j hj => hrule j (List.mem_cons_of_mem i hj)) (hrule i List.mem_cons_self s hl hs)

/-! ## Storage in which every byte is zero (R68) -/

/-- Every byte reads zero, and so does the snapshot an open session would write back. -/
def ReadsZero (s : State) : Prop :=
  (∀ a, s.mem.read a = 0) ∧ (s.life = .loading → ∀ a, s.snap.read a = 0)

/-- Of the four writers, `ALLOC` zero-fills and `LOAD_ABORT` writes back zeros; a session opens only with a copy of
the zeros. So only `LOAD_BYTE` and `STOREB` can end it. -/
theorem readsZero_ruleOf {i : Instr} {s : State} (hl : Legal (commandOf i) s.life = true)
    (hload : ∀ d, i ≠ .loadByte d) (hstore : ∀ a d, i ≠ .storeb a d) (hs : ReadsZero s) :
    ReadsZero (ruleOf i s) := by
  obtain ⟨hmem, hsnap⟩ := hs
  refine ⟨fun a => ?_, fun hopen => ?_⟩
  · cases hw : writesAt i s a with
    | false => rw [ruleOf_mem_read hw, hmem]
    | true =>
      cases i
      case alloc =>
        have hd : s.allocOk = true := hw
        simp [ruleOf, hd]
      case loadAbort =>
        refine (Memory.read_restore s.mem s.snap s.cfg.maxStack s.lcnt a).trans ?_
        rw [hsnap (of_decide_eq_true hl), hmem, ite_self]
      case loadByte d => exact absurd rfl (hload d)
      case storeb b d => exact absurd rfl (hstore b d)
      all_goals cases hw
  · obtain rfl | ⟨-, -, d, rfl⟩ := ruleOf_life_loading hl hopen
    · exact hmem
    · exact absurd rfl (hload d)

/-- Settles O22: the storage an `ALLOC` leaves reads zero, the run keeps that, and a read answers with what
storage holds. -/
theorem freshStorageReadsZero : Obligations.FreshStorageReadsZero := by
  intro s t u is h hp hrun hwriters hu hlife
  have hfresh : ReadsZero t := by
    obtain ⟨-, ⟨-, rfl⟩ | ⟨herr, -⟩⟩ := exec_alloc_answered h hp
    · exact ⟨Memory.read_zero, fun hopen => by cases hopen⟩
    · cases herr
  obtain ⟨hzero, -⟩ : ReadsZero u := hrun.keeps hu (fun i hi v hl hv =>
    have ⟨hload, hstore⟩ := hwriters i hi
    readsZero_ruleOf hl hload hstore hv) hfresh
  refine ⟨fun a ha => ?_, fun pos h0 h2 => ?_⟩
  · rw [loadbReturnsTheByte u a hu hlife ha, hzero]
  · rw [fetchReturnsTheThreeBytes u pos hu hlife h0 h2, hzero, hzero, hzero]

end Sys2Proof.Machine
end

section
/-! Proofs: the load session, its commands and its whole effect (41_code_load.md). -/

namespace Sys2Proof.Machine

/-! ## The four load commands where they are legal (R72 to R75) -/

/-- Settles O24. -/
theorem loadBeginOpensOrReports : Obligations.LoadBeginOpensOrReports :=
  fun _ hf hl => ⟨exec_of_legal (i := .loadBegin true) hf (decide_eq_true hl),
    exec_of_legal (i := .loadBegin false) hf (decide_eq_true hl)⟩

/-- Settles O25, by the two outcomes of the check of R73. -/
theorem loadByteWritesOrOverflows : Obligations.LoadByteWritesOrOverflows := by
  intro s d hf hl
  have hexec := exec_of_legal (i := .loadByte d) hf (decide_eq_true hl)
  refine ⟨fun hfits => ?_, fun hover => ?_⟩
  · have ho : ¬ loadOverflows s = true := fun h => absurd ((loadOverflows_iff s).1 h) (not_le.2 hfits)
    exact hexec.trans (congrArg Host.Outcome.next (if_neg ho))
  · exact hexec.trans (congrArg Host.Outcome.next (if_pos ((loadOverflows_iff s).2 hover)))

/-- Settles O26. -/
theorem loadEndClosesTheSession : Obligations.LoadEndClosesTheSession :=
  fun _ hf hl => exec_of_legal (i := .loadEnd) hf (decide_eq_true hl)

/-- Settles O27: the bytes are those of the write-back's loop. -/
theorem loadAbortWritesBack : Obligations.LoadAbortWritesBack :=
  fun s hf hl => ⟨_, exec_of_legal (i := .loadAbort) hf (decide_eq_true hl), rfl, hf, rfl,
    Memory.read_restore s.mem s.snap s.cfg.maxStack s.lcnt⟩

/-! ## Where code load writes (R76) -/

theorem writesAt_loadByte_iff (d : Byte) (s : State) (a : Nat) :
    writesAt (.loadByte d) s a = true ↔ s.cfg.maxStack + s.lcnt < s.cfg.maxRam ∧ a = s.cfg.maxStack + s.lcnt := by
  rw [writesAt, Bool.and_eq_true, Bool.not_eq_true', ← Bool.not_eq_true, loadOverflows_iff, not_le,
    decide_eq_true_iff, State.loadAddr_eq]

theorem writesAt_loadAbort_iff (s : State) (a : Nat) :
    writesAt .loadAbort s a = true ↔ s.cfg.maxStack ≤ a ∧ a < s.cfg.maxStack + s.lcnt := by
  simp [writesAt]

/-- Every byte a legal load command writes lies in the code region: `LOAD_BYTE` has checked it, and the addresses
`LOAD_ABORT` writes back are a session's, which the invariant bounds. -/
theorem mem_codeRegion_of_writesAt {i : Instr} {s : State} {a : Nat} (hs : Inv s) (hf : s.faulted = none)
    (hi : (∃ v, i = .loadBegin v) ∨ (∃ d, i = .loadByte d) ∨ i = .loadEnd ∨ i = .loadAbort)
    (hl : Legal (commandOf i) s.life = true) (hw : writesAt i s a = true) :
    s.cfg.maxStack ≤ a ∧ a < s.cfg.maxRam := by
  obtain ⟨v, rfl⟩ | ⟨d, rfl⟩ | rfl | rfl := hi
  · cases hw
  · rw [writesAt_loadByte_iff] at hw
    omega
  · cases hw
  · obtain ⟨-, -, hsession⟩ := hs hf
    obtain ⟨hbound, -⟩ := hsession (of_decide_eq_true hl)
    rw [writesAt_loadAbort_iff] at hw
    omega

/-- Settles O29: a byte outside the region named is one the command does not write. -/
theorem codeLoadWritesOnlyTheCodeRegion : Obligations.CodeLoadWritesOnlyTheCodeRegion := by
  intro s t i a hs hi h ht
  obtain ⟨hf, -⟩ := exec_next h
  obtain ⟨hl, rfl⟩ := exec_next_not_faulted h ht
  refine ⟨fun hout => ruleOf_mem_read (Bool.eq_false_iff.2 fun hw => ?_), ?_⟩
  · have hin := mem_codeRegion_of_writesAt hs hf hi hl hw
    omega
  · rintro rfl hout
    refine ruleOf_mem_read (Bool.eq_false_iff.2 fun hw => ?_)
    rw [writesAt_loadAbort_iff] at hw
    omega

/-! ## How a session opens and closes (R71) -/

/-- What is legal in a session (R101). -/
theorem eq_of_legal_loading {i : Instr} (h : Legal (commandOf i) .loading = true) :
    i = .release ∨ (∃ d, i = .loadByte d) ∨ i = .loadEnd ∨ i = .loadAbort := by
  cases i
  case release => exact .inl rfl
  case loadByte d => exact .inr (.inl ⟨d, rfl⟩)
  case loadEnd => exact .inr (.inr (.inl rfl))
  case loadAbort => exact .inr (.inr (.inr rfl))
  all_goals cases h

theorem ruleOf_loadByte_life {s : State} (d : Byte) (hlife : s.life = .loading) :
    (ruleOf (.loadByte d) s).life ≠ .loading ↔ s.cfg.maxRam ≤ s.cfg.maxStack + s.lcnt := by
  rw [← loadOverflows_iff]
  cases ho : loadOverflows s <;> simp [ruleOf, ho, hlife]

/-- Settles O30: outside a session by what can leave one open, in a session by what is legal there. -/
theorem sessionOpensAndCloses : Obligations.SessionOpensAndCloses := by
  intro s t i h ht
  obtain ⟨hl, rfl⟩ := exec_next_not_faulted h ht
  refine ⟨fun hclosed => ⟨fun hopen => ?_, ?_⟩, fun hlife => ?_⟩
  · obtain rfl | ⟨hload, -⟩ := ruleOf_life_loading hl hopen
    · exact ⟨of_decide_eq_true hl, rfl⟩
    · exact absurd hload hclosed
  · rintro ⟨-, rfl⟩
    rfl
  · rw [hlife] at hl
    obtain rfl | ⟨d, rfl⟩ | rfl | rfl := eq_of_legal_loading hl
    · simp [ruleOf]
    · simp [ruleOf_loadByte_life d hlife]
    · simp [ruleOf]
    · simp [ruleOf]

/-! ## The bytes a session has written (R73) -/

/-- Bytes written at ascending addresses: each is read at its place, every other address as before. -/
theorem Memory.read_place (bs : List Byte) (m : Memory) (base a : Nat) :
    (m.place base bs).read a =
      if base ≤ a ∧ a < base + bs.length then bs.getD (a - base) 0 else m.read a := by
  induction bs generalizing m base with
  | nil =>
    have h : ¬ (base ≤ a ∧ a < base + 0) := by omega
    exact (if_neg h).symm
  | cons b bs ih =>
    rw [Memory.place, ih, Memory.read_write, List.length_cons]
    by_cases ha : a = base
    · subst ha
      simp
    · by_cases hin : base + 1 ≤ a ∧ a < base + 1 + bs.length
      · have hplace : a - base = a - (base + 1) + 1 := by omega
        rw [if_pos hin, if_pos (by omega), hplace, List.getD_cons_succ]
      · rw [if_neg hin, if_neg ha, if_neg (by omega)]

/-- An open session that has written `bs` on top of what it had. -/
def State.withBytes (s : State) (bs : List Byte) : State :=
  { s with mem := s.mem.place s.loadAddr bs, lcnt := s.lcnt + bs.length }

theorem State.withBytes_cons (s : State) (b : Byte) (bs : List Byte) :
    s.withBytes (b :: bs) = { s.memWrite s.loadAddr b with lcnt := s.lcnt + 1 }.withBytes bs := by
  simp [State.withBytes, Memory.place, State.memWrite, Nat.add_assoc, Nat.add_comm 1]

/-- In a session, bytes that fit and one instruction more: it meets the state with the bytes written. -/
theorem runs_loadBytes_concat {bs : List Byte} {s u : State} {i : Instr} (hf : s.faulted = none)
    (hl : s.life = .loading) (hfit : bs.length ≤ s.cfg.maxRam - (s.cfg.maxStack + s.lcnt))
    (h : exec i (s.withBytes bs) = .next u) : Runs (bs.map .loadByte ++ [i]) s u := by
  induction bs generalizing s with
  | nil => exact ⟨u, h, rfl⟩
  | cons b bs ih =>
    rw [List.length_cons] at hfit
    obtain ⟨hwrite, -⟩ := loadByteWritesOrOverflows s b hf hl
    have hrest : bs.length ≤ s.cfg.maxRam - (s.cfg.maxStack + (s.lcnt + 1)) := by omega
    refine ⟨_, hwrite (by omega), ih hf hl hrest ?_⟩
    rw [State.withBytes_cons] at h
    exact (exec_ignores_resp i _ _).trans h

/-- The session that `LOAD_BEGIN 1` opens. -/
def State.opened (s : State) : State := { s with snap := s.mem, lcnt := 0, life := .loading }

/-- From `READY`: the opening, bytes that fit, and one instruction more. -/
theorem runs_session {bs : List Byte} {s u : State} {i : Instr} (hf : s.faulted = none) (hl : s.life = .ready)
    (hfit : bs.length ≤ s.cfg.codeCapacity) (h : exec i (s.opened.withBytes bs) = .next u) :
    Runs (.loadBegin true :: (bs.map .loadByte ++ [i])) s u := by
  obtain ⟨hopen, -⟩ := loadBeginOpensOrReports s hf hl
  refine ⟨_, hopen, runs_loadBytes_concat hf rfl hfit ?_⟩
  exact (exec_ignores_resp i _ _).trans h

@[simp] theorem State.opened_withBytes_cfg (s : State) (bs : List Byte) : (s.opened.withBytes bs).cfg = s.cfg := rfl

@[simp] theorem State.opened_withBytes_lcnt (s : State) (bs : List Byte) :
    (s.opened.withBytes bs).lcnt = bs.length :=
  Nat.zero_add _

/-- The bytes after a session that wrote `bs` and kept them. -/
theorem State.read_opened_withBytes (s : State) (bs : List Byte) (a : Nat) :
    (s.opened.withBytes bs).mem.read a =
      if s.cfg.maxStack ≤ a ∧ a < s.cfg.maxStack + bs.length then bs.getD (a - s.cfg.maxStack) 0
      else s.mem.read a :=
  Memory.read_place bs s.mem s.cfg.maxStack a

/-! ## The effect of the commands of a source (R77) -/

/-- The bytes a source that ends has left: those of it that fit. -/
theorem State.read_opened_withBytes_take (s : State) (bs : List Byte) (a : Nat) :
    (s.opened.withBytes (bs.take s.cfg.codeCapacity)).mem.read a =
      (Source.complete bs).byteAfter s.cfg s.mem a := by
  rw [s.read_opened_withBytes, Source.byteAfter, List.length_take, min_comm]
  refine if_ctx_congr Iff.rfl (fun ha => ?_) fun _ => rfl
  rw [List.getD_eq_getElem?_getD, List.getElem?_take_of_lt (by omega), List.getD_eq_getElem?_getD]

/-- Where the overflow closes the session, whether the source would have failed makes no difference (log entry
16). -/
theorem Source.failedAfter_eq_complete_of_overflow {c : Config} {bs : List Byte}
    (hover : c.codeCapacity < bs.length) :
    (Source.failedAfter bs).commands c = (Source.complete bs).commands c ∧
      (Source.failedAfter bs).status c = (Source.complete bs).status c ∧
      (Source.failedAfter bs).byteAfter c = (Source.complete bs).byteAfter c := by
  have hnot : ¬ bs.length ≤ c.codeCapacity := not_le.2 hover
  refine ⟨?_, ?_, ?_⟩
  · simp [Source.commands, hnot]
  · simp [Source.status, hnot]
  · funext m a
    refine if_congr ?_ rfl rfl
    rw [min_eq_right hover.le]
    unfold Config.codeCapacity at hover ⊢
    omega

/-- What `LoadCode` promises of the state after it: `READY`, the status, and every byte. -/
def Loaded (src : Source) (s u : State) : Prop :=
  u.life = .ready ∧ u.faulted = none ∧ u.resp = some { status := src.status s.cfg, data := [] } ∧
    ∀ a, u.mem.read a = src.byteAfter s.cfg s.mem a

section
variable {s : State} {bs : List Byte} (hf : s.faulted = none) (hl : s.life = .ready)
include hf hl

theorem loaded_unavailable :
    ∃ u, Runs (Source.unavailable.commands s.cfg) s u ∧ Loaded .unavailable s u := by
  obtain ⟨-, hreport⟩ := loadBeginOpensOrReports s hf hl
  exact ⟨_, ⟨_, hreport, rfl⟩, hl, hf, rfl, fun _ => rfl⟩

theorem loaded_complete (hfit : bs.length ≤ s.cfg.codeCapacity) :
    ∃ u, Runs ((Source.complete bs).commands s.cfg) s u ∧ Loaded (.complete bs) s u := by
  rw [Source.commands, if_pos hfit]
  refine ⟨_, runs_session hf hl hfit (loadEndClosesTheSession _ hf rfl), rfl, hf, ?_, fun a => ?_⟩
  · simp [Source.status, hfit]
  · rw [Source.byteAfter, min_eq_left hfit]
    exact s.read_opened_withBytes bs a

/-- A session aborted after `bs`: what it wrote is written back from the snapshot, which is the storage before it. -/
theorem loaded_failedAfter (hfit : bs.length ≤ s.cfg.codeCapacity) :
    ∃ u, Runs ((Source.failedAfter bs).commands s.cfg) s u ∧ Loaded (.failedAfter bs) s u := by
  rw [Source.commands, if_pos hfit]
  obtain ⟨u, habort, hready, hfu, hresp, hread⟩ := loadAbortWritesBack (s.opened.withBytes bs) hf rfl
  refine ⟨u, runs_session hf hl hfit habort, hready, hfu, ?_, fun a => ?_⟩
  · simpa [Source.status, hfit] using hresp
  · rw [Source.byteAfter, if_neg (by omega), hread, State.opened_withBytes_cfg, State.opened_withBytes_lcnt]
    split
    case isTrue => rfl
    case isFalse hout => rw [s.read_opened_withBytes, if_neg hout]

/-- The host sends one byte more than fits, which closes the session and is not written (R73, R118). -/
theorem runs_overflow (hover : s.cfg.codeCapacity < bs.length) :
    Runs (.loadBegin true :: (bs.take (s.cfg.codeCapacity + 1)).map .loadByte) s
      { s.opened.withBytes (bs.take s.cfg.codeCapacity) with
        life := .ready, resp := some { status := .codeTooLargeError, data := [] } } := by
  have hlen : (bs.take s.cfg.codeCapacity).length = s.cfg.codeCapacity := List.length_take_of_le hover.le
  obtain ⟨-, hclose⟩ :=
    loadByteWritesOrOverflows (s.opened.withBytes (bs.take s.cfg.codeCapacity)) bs[s.cfg.codeCapacity] hf rfl
  rw [List.take_succ_eq_append_getElem hover, List.map_append]
  refine runs_session hf hl hlen.le (hclose ?_)
  rw [State.opened_withBytes_cfg, State.opened_withBytes_lcnt, hlen, Config.codeCapacity]
  omega

theorem loaded_complete_of_overflow (hover : s.cfg.codeCapacity < bs.length) :
    ∃ u, Runs ((Source.complete bs).commands s.cfg) s u ∧ Loaded (.complete bs) s u := by
  have hnot : ¬ bs.length ≤ s.cfg.codeCapacity := not_le.2 hover
  rw [Source.commands, if_neg hnot]
  refine ⟨_, runs_overflow hf hl hover, rfl, hf, ?_, s.read_opened_withBytes_take bs⟩
  simp [Source.status, hnot]

theorem loaded_failedAfter_of_overflow (hover : s.cfg.codeCapacity < bs.length) :
    ∃ u, Runs ((Source.failedAfter bs).commands s.cfg) s u ∧ Loaded (.failedAfter bs) s u := by
  obtain ⟨hcommands, hstatus, hbytes⟩ := Source.failedAfter_eq_complete_of_overflow hover
  simpa only [Loaded, hcommands, hstatus, hbytes] using loaded_complete_of_overflow hf hl hover

/-- The commands of every source have the effect of R77, by what the source does and whether it fits. -/
theorem loaded_commands (src : Source) : ∃ u, Runs (src.commands s.cfg) s u ∧ Loaded src s u := by
  cases src with
  | unavailable => exact loaded_unavailable hf hl
  | complete bs =>
    rcases le_or_gt bs.length s.cfg.codeCapacity with hfit | hover
    · exact loaded_complete hf hl hfit
    · exact loaded_complete_of_overflow hf hl hover
  | failedAfter bs =>
    rcases le_or_gt bs.length s.cfg.codeCapacity with hfit | hover
    · exact loaded_failedAfter hf hl hfit
    · exact loaded_failedAfter_of_overflow hf hl hover

end

/-! ## Commands performed one step per request (R51) -/

/-- A run keeps the parameters and the requests that wait, where it ends with no fault recorded. -/
theorem Runs.cfg_reqs {is : List Instr} {s u : State} (h : Runs is s u) (hu : u.faulted = none) :
    u.cfg = s.cfg ∧ u.reqs = s.reqs :=
  h.keeps (P := fun u => u.cfg = s.cfg ∧ u.reqs = s.reqs) hu
    (fun i _ t _ ⟨hcfg, hreqs⟩ => ⟨(ruleOf_cfg i t).trans hcfg, (ruleOf_reqs i t).trans hreqs⟩) ⟨rfl, rfl⟩

/-- The state with other requests waiting. -/
def State.withReqs (rs : List Request) (s : State) : State := { s with reqs := rs }

theorem step_withReqs_cons (s : State) (r : Request) (rs : List Request) :
    step (s.withReqs (r :: rs)) = exec (decodeRequest s.cfg r) (s.withReqs rs) :=
  rfl

theorem ruleOf_withReqs (i : Instr) (s : State) (rs : List Request) :
    ruleOf i (s.withReqs rs) = (ruleOf i s).withReqs rs := by
  cases i
  case alloc | loadBegin | loadByte | fetch | loadb | storeb =>
    simp only [ruleOf, apply_ite (State.withReqs rs)]
    rfl
  all_goals rfl

/-- An instruction carries the requests that wait along unread. -/
theorem exec_withReqs {i : Instr} {s t : State} (rs : List Request) (h : exec i s = .next t) :
    exec i (s.withReqs rs) = .next (t.withReqs rs) := by
  obtain ⟨hf, ⟨hl, rfl⟩ | ⟨-, r, hr, rfl⟩⟩ := exec_next h
  · rw [exec_of_legal (s := s.withReqs rs) hf hl, ruleOf_withReqs]
  · exact exec_of_illegal (s := s.withReqs rs) hf hr

/-- The request of a command decodes to it. -/
def Carried (c : Config) (i : Instr) : Prop := ∃ r, encodeRequest c i = some r ∧ decodeRequest c r = i

/-- The load commands read no bus, so this needs nothing of the parameters. -/
theorem carried_load (c : Config) {i : Instr}
    (hi : (∃ v, i = .loadBegin v) ∨ (∃ d, i = .loadByte d) ∨ i = .loadEnd ∨ i = .loadAbort) : Carried c i := by
  obtain ⟨v, rfl⟩ | ⟨d, rfl⟩ | rfl | rfl := hi <;> exact ⟨_, rfl, by simp [decodeRequest]⟩

theorem carried_session (c : Config) (bs : List Byte) {tail : List Instr} (h : ∀ i ∈ tail, Carried c i) :
    ∀ i ∈ .loadBegin true :: (bs.map .loadByte ++ tail), Carried c i := by
  rw [List.forall_mem_cons, List.forall_mem_append, List.forall_mem_map]
  exact ⟨carried_load c (.inl ⟨true, rfl⟩), fun d _ => carried_load c (.inr (.inl ⟨d, rfl⟩)), h⟩

/-- A host sends load commands only for a source (R65). -/
theorem carried_commands (c : Config) (src : Source) : ∀ i ∈ src.commands c, Carried c i := by
  cases src with
  | unavailable => exact List.forall_mem_singleton.2 (carried_load c (.inl ⟨false, rfl⟩))
  | complete bs =>
    rw [Source.commands]
    split
    · exact carried_session c bs (List.forall_mem_singleton.2 (carried_load c (.inr (.inr (.inl rfl)))))
    · simpa only [List.append_nil] using carried_session c (bs.take (c.codeCapacity + 1)) (List.forall_mem_nil _)
  | failedAfter bs =>
    rw [Source.commands]
    split
    · exact carried_session c bs (List.forall_mem_singleton.2 (carried_load c (.inr (.inr (.inr rfl)))))
    · simpa only [List.append_nil] using carried_session c (bs.take (c.codeCapacity + 1)) (List.forall_mem_nil _)

/-- With the requests of a run's commands on the port, the run is performed one step per request. -/
theorem stepN_of_runs {is : List Instr} {s u : State} (h : Runs is s u) (hu : u.faulted = none)
    (hcarried : ∀ i ∈ is, Carried s.cfg i) :
    stepN is.length (s.withReqs (requestsOf s.cfg is ++ s.reqs)) = .next u := by
  induction is generalizing s with
  | nil =>
    obtain rfl : u = s := h
    rfl
  | cons i is ih =>
    obtain ⟨⟨r, hencode, hdecode⟩, hrest⟩ := List.forall_mem_cons.1 hcarried
    obtain ⟨t, hexec, hrun⟩ := h
    obtain ⟨-, rfl⟩ := exec_next_not_faulted hexec (hrun.not_faulted hu)
    have hstep : step (s.withReqs (requestsOf s.cfg (i :: is) ++ s.reqs)) =
        .next ((ruleOf i s).withReqs (requestsOf s.cfg is ++ s.reqs)) := by
      rw [requestsOf, List.filterMap_cons_some hencode, List.cons_append, step_withReqs_cons, hdecode]
      exact exec_withReqs _ hexec
    rw [List.length_cons, stepN_succ _ hstep]
    simpa only [ruleOf_cfg, ruleOf_reqs] using ih hrun (by rwa [ruleOf_cfg])

/-- Settles O31: the commands of the source have the effect, and the steps perform them. -/
theorem wholeLoadSession : Obligations.WholeLoadSession := by
  intro s src rest hf hl hreqs
  obtain ⟨u, hrun, hready, hfu, hresp, hbytes⟩ := loaded_commands (s := s.withReqs rest) hf hl src
  have hstart : s.withReqs (requestsOf s.cfg (src.commands s.cfg) ++ rest) = s := by
    rw [← hreqs, State.withReqs]
  obtain ⟨hcfg, hrest⟩ := hrun.cfg_reqs hfu
  refine ⟨u, ?_, hready, hfu, hrest, hcfg, hresp, hbytes⟩
  rw [← hstart]
  exact stepN_of_runs hrun hfu (carried_commands s.cfg src)

end Sys2Proof.Machine
end

section
/-! Proofs: when a fetch succeeds, and the fetch as the decoder's instruction (42_fetch_decode.md). -/

namespace Sys2Proof.Machine

/-! ## The two outcomes of `FETCH`'s own check (R80) -/

theorem ruleOf_fetch_of_overflow {s : State} {pos : Int} (h : pos < 0 ∨ (s.cfg.maxRam : Int) ≤ pos + 2) :
    ruleOf (.fetch pos) s = s.raise .memoryOverflowError :=
  if_pos ((fetchOverflows_iff s.cfg pos).2 h)

theorem ruleOf_fetch_of_inRange {s : State} {pos : Int} (h0 : 0 ≤ pos) (h2 : pos + 2 < s.cfg.maxRam) :
    ruleOf (.fetch pos) s = s.decoderOutput (s.mem.read pos.toNat) (s.mem.read (pos.toNat + 1))
      (s.mem.read (pos.toNat + 2)) := by
  refine if_neg fun ho => ?_
  rw [fetchOverflows_iff] at ho
  omega

theorem exec_fetch_of_overflow {s : State} {pos : Int} (hf : s.faulted = none) (hl : s.life = .ready)
    (h : pos < 0 ∨ (s.cfg.maxRam : Int) ≤ pos + 2) :
    exec (.fetch pos) s = .next (s.raise .memoryOverflowError) := by
  rw [exec_of_legal (i := .fetch pos) hf (decide_eq_true hl), ruleOf_fetch_of_overflow h]

/-! ## When a fetch succeeds (R82) -/

/-- What an `OK` says of a fetch: a recorded fault presents no response, and an overflow another status. -/
theorem exec_fetch_ok {s t : State} {pos : Int} {d : List Byte} (h : exec (.fetch pos) s = .next t)
    (hok : t.resp = some { status := .ok, data := d }) :
    s.life = .ready ∧ 0 ≤ pos ∧ pos + 2 < s.cfg.maxRam ∧
      d = [s.mem.read pos.toNat, s.mem.read (pos.toNat + 1), s.mem.read (pos.toNat + 2)] := by
  obtain ⟨-, ⟨hl, rfl⟩ | ⟨-, r, -, rfl⟩⟩ := exec_next h
  · by_cases hover : pos < 0 ∨ (s.cfg.maxRam : Int) ≤ pos + 2
    · rw [ruleOf_fetch_of_overflow hover] at hok
      cases hok
    · have h0 : 0 ≤ pos := by omega
      have h2 : pos + 2 < s.cfg.maxRam := by omega
      rw [ruleOf_fetch_of_inRange h0 h2] at hok
      cases hok
      exact ⟨of_decide_eq_true hl, h0, h2, rfl⟩
  · cases hok

/-- Settles O34. -/
theorem fetchSucceedsExactlyInRange : Obligations.FetchSucceedsExactlyInRange := by
  intro s pos hf
  refine ⟨⟨?_, ?_⟩, ?_, ?_⟩
  · rintro ⟨t, d, h, hok⟩
    obtain ⟨hl, h0, h2, -⟩ := exec_fetch_ok h hok
    exact ⟨hl, h0, by omega⟩
  · rintro ⟨hl, h0, h3⟩
    exact ⟨_, _, exec_fetch_of_inRange hf hl h0 (by omega), rfl⟩
  · intro t d h hok
    obtain ⟨-, h0, -, hd⟩ := exec_fetch_ok h hok
    rwa [Int.toNat_add h0 (by decide), Int.toNat_add h0 (by decide)]
  · exact fun hl hover => ⟨_, exec_fetch_of_overflow hf hl hover, rfl⟩

/-! ## The decoded instruction (R80, R81) -/

/-- Serving a command uses its rule at the state served only. -/
theorem State.serve_congr {s : State} {f g : State → State} (c : Command) (h : f s = g s) :
    s.serve c f = s.serve c g := by
  simp only [State.serve, h]

/-- Settles O9: `FETCH` and the instruction on the decoder stand in the same protocol row, and in range their rules
agree. -/
theorem fetchRunsTheDecodedInstruction : Obligations.FetchRunsTheDecodedInstruction := by
  intro s pos h0 h2
  refine ⟨_, rfl, ?_⟩
  rw [exec_eq_serve, exec_eq_serve]
  exact State.serve_congr .fetch (ruleOf_fetch_of_inRange h0 h2)

end Sys2Proof.Machine
end

section
/-! Proofs: the byte load and store port, its window and the round trip through it (43_byte_access.md). -/

namespace Sys2Proof.Machine

/-! ## `STOREB` in range (R86) -/

theorem exec_storeb_of_inRange {s : State} {a : Nat} (d : Byte) (hf : s.faulted = none) (hl : s.life = .ready)
    (ha : a < s.cfg.maxRam) : exec (.storeb a d) s = .next ((s.memWrite a d).respond .ok []) := by
  rw [exec_of_legal (i := .storeb a d) hf (decide_eq_true hl)]
  exact congrArg Host.Outcome.next (if_pos ((dataInRange_iff _ _).2 ha))

/-- Settles O37. -/
theorem storebWritesTheByte : Obligations.StorebWritesTheByte :=
  fun _ _ d hf hl ha => ⟨_, exec_storeb_of_inRange d hf hl ha, Memory.read_write_same _ _ _,
    fun b hb => Memory.read_write_other _ _ b d hb, rfl⟩

/-! ## The window of the data port (R84, R87) -/

/-- A request whose `op` is that of a byte access presents the low `LS_AW` bits of `da` (R53, R55). -/
theorem decodeRequest_of_op_byteAccess (c : Config) {r : Request} (h : reqOp r.req = 7 ∨ reqOp r.req = 8) :
    decodeRequest c r = .loadb (r.da % 2 ^ c.lsAw) ∨
      decodeRequest c r = .storeb (r.da % 2 ^ c.lsAw) (reqD r.req) :=
  h.imp (decodeRequest_of_op_loadb c) (decodeRequest_of_op_storeb c)

/-- The bounds checker of the data port: the status of either byte access is that of its address. -/
theorem exec_byteAccess_status {i : Instr} {s : State} {a : Nat} {d : Byte} (hi : i = .loadb a ∨ i = .storeb a d)
    (hf : s.faulted = none) (hl : s.life = .ready) :
    ∃ t p, exec i s = .next t ∧ t.resp = some p ∧
      p.status = if a < s.cfg.maxRam then .ok else .addressOutOfRangeError := by
  have hlegal : Legal (commandOf i) s.life = true := by
    obtain rfl | rfl := hi <;> exact decide_eq_true hl
  refine ⟨ruleOf i s, ?_⟩
  simp only [exec_of_legal hf hlegal, true_and]
  by_cases ha : a < s.cfg.maxRam
  · have hin : dataInRange s.cfg a = true := (dataInRange_iff _ _).2 ha
    obtain rfl | rfl := hi <;> simp [ruleOf, hin, ha]
  · have hout : ¬ dataInRange s.cfg a = true := mt (dataInRange_iff _ _).1 ha
    obtain rfl | rfl := hi <;> simp [ruleOf, hout, ha]

/-- Settles O39: the address presented is below `2^LS_AW`, so where that is at most `MAX_RAM` it is in range. -/
theorem dataPortWindow : Obligations.DataPortWindow := by
  intro s r rs hf hl hr hop
  obtain ⟨t, p, hexec, hresp, hstatus⟩ :=
    exec_byteAccess_status (s := s.takeRequest) (decodeRequest_of_op_byteAccess s.cfg hop) hf hl
  rw [State.takeRequest_cfg] at hstatus
  refine ⟨t, p, (step_cons hr).trans hexec, hresp, ?_, fun hwindow => ?_⟩
  · simp [hstatus]
  · have hbus : r.da % 2 ^ s.cfg.lsAw < 2 ^ s.cfg.lsAw := Nat.mod_lt _ (by positivity)
    rw [hstatus, if_pos (hbus.trans_le hwindow)]

/-! ## The round trip (R88) -/

/-- Settles O40: the store puts `v` at `a`, the run keeps it and the parameters, and the load reads it. -/
theorem storeThenLoadReturnsTheByte : Obligations.StoreThenLoadReturnsTheByte := by
  intro s t u a v is ha h ht
  obtain ⟨-, rfl⟩ := exec_next_not_faulted h ht
  have hmem := ruleOf_storeb_mem v ha
  refine ⟨fun b hb => ?_, fun hrun hu hlife => ?_⟩
  · rw [hmem, Memory.read_write_other _ _ _ _ hb]
  · have hread : u.mem.read a = v := by rw [hrun.mem_read hu, hmem, Memory.read_write_same]
    have hcfg : u.cfg = s.cfg := (hrun.cfg hu).trans (ruleOf_cfg _ s)
    rw [loadbReturnsTheByte u a hu hlife (hcfg ▸ ha), hread]

end Sys2Proof.Machine
end

section
/-! Proofs: release, and what is served after it (44_release.md). -/

namespace Sys2Proof.Machine

/-! ## `RELEASE` where it is legal (R89) -/

theorem legal_release_iff (l : Life) : Legal (commandOf .release) l = true ↔ l = .ready ∨ l = .loading :=
  decide_eq_true_iff

/-- Settles O23: the rule of `RELEASE` writes the lifecycle and the response, and no other component. -/
theorem releaseEndsTheStorage : Obligations.ReleaseEndsTheStorage :=
  fun _ hf hl => ⟨_, exec_of_legal hf ((legal_release_iff _).2 hl), rfl, rfl, hf, rfl, rfl, rfl, rfl⟩

/-! ## After the release (R90) -/

/-- Settles O18: an instruction that records no fault was legal, and without storage `ALLOC` alone is. -/
theorem afterReleaseOnlyAllocIsLegal : Obligations.AfterReleaseOnlyAllocIsLegal :=
  fun _ _ _ hlife h ht => eq_alloc_of_legal (.inr hlife) (exec_next_not_faulted h ht).1

end Sys2Proof.Machine
end

section
/-! Proofs: the protocol table, the errors and their precision, and the end of a run (60_exceptions.md). -/

namespace Sys2Proof.Machine

/-! ## The protocol table (R101, R102) -/

/-- A cell of the protocol table that names a reason. -/
theorem exec_of_illegal_cell {i : Instr} {s : State} {l : Life} {r : ProtocolFault} (hf : s.faulted = none)
    (hl : s.life = l) (hr : protocolCheck (commandOf i) l = some r) : exec i s = .next (s.recordFault r) :=
  exec_of_illegal hf (hl ▸ hr)

/-- A cell of the protocol table marked "ok". -/
theorem exec_answers_of_legal {i : Instr} {s : State} (hf : s.faulted = none)
    (hl : Legal (commandOf i) s.life = true) : ∃ t p, exec i s = .next t ∧ t.faulted = none ∧ t.resp = some p := by
  obtain ⟨p, hp, -⟩ := ruleOf_answers hl
  exact ⟨_, p, exec_of_legal hf hl, (ruleOf_faulted i s).trans hf, hp⟩

/-- Settles O13, cell by cell. -/
theorem protocolTable : Obligations.ProtocolTable := by
  intro s hf
  refine ⟨?alloc, ?release, ?noStorage, fun h _ => exec_of_illegal_cell hf h rfl,
    fun h _ => exec_of_illegal_cell hf h rfl, fun h => exec_of_illegal_cell hf h rfl,
    fun h => exec_of_illegal_cell hf h rfl, fun h _ => exec_of_illegal_cell hf h rfl,
    fun h _ => exec_of_illegal_cell hf h rfl, fun h _ _ => exec_of_illegal_cell hf h rfl,
    fun i hi => exec_of_reserved hi hf, ?ok⟩
  case alloc => rintro (h | h) <;> exact exec_of_illegal_cell hf h rfl
  case release => rintro (h | h) <;> exact exec_of_illegal_cell hf h rfl
  case noStorage =>
    rintro i (⟨v, rfl⟩ | ⟨d, rfl⟩ | rfl | rfl | ⟨pos, rfl⟩ | ⟨a, rfl⟩ | ⟨a, d, rfl⟩) <;>
      exact ⟨fun h => exec_of_illegal_cell hf h rfl, fun h => exec_of_illegal_cell hf h rfl⟩
  case ok =>
    intro i hi
    refine exec_answers_of_legal hf ?_
    obtain ⟨rfl, hl⟩ | ⟨rfl, hl⟩ | ⟨⟨v, rfl⟩ | ⟨pos, rfl⟩ | ⟨a, rfl⟩ | ⟨a, d, rfl⟩, hl⟩ |
      ⟨⟨d, rfl⟩ | rfl | rfl, hl⟩ := hi <;> exact decide_eq_true hl

/-- An instruction records a fault exactly where it is not legal. -/
theorem exec_next_faulted_iff {i : Instr} {s t : State} (h : exec i s = .next t) :
    t.faulted = none ↔ Legal (commandOf i) s.life = true := by
  obtain ⟨hf, ⟨hl, rfl⟩ | ⟨hl, r, -, rfl⟩⟩ := exec_next h
  · exact iff_of_true ((ruleOf_faulted i s).trans hf) hl
  · exact iff_of_false (by simp) (by simp [hl])

/-- Settles O16. -/
theorem faultsAreExactlyTheIllegalRequests : Obligations.FaultsAreExactlyTheIllegalRequests := by
  intro s t r rs hr h
  rw [stepRunsTheDecodedRequest s r rs hr] at h
  obtain ⟨hf, -⟩ := exec_next h
  exact ⟨hf, exec_next_faulted_iff (s := { s with reqs := rs }) h⟩

/-! ## Which instruction raises which error, and the state it leaves (R92 to R99) -/

/-- What each instruction that can raise an error in state `s` raises: its one status, and the state it then
leaves. When it does so is its rule's to say. -/
inductive Raises (s : State) : Instr → Status → State → Prop
  | alloc : Raises s .alloc .allocationError (s.afterDraw.raise .allocationError)
  | loadBegin : Raises s (.loadBegin false) .sourceUnavailableError (s.raise .sourceUnavailableError)
  | loadAbort : Raises s .loadAbort .sourceUnavailableError (ruleOf .loadAbort s)
  | loadByte (d : Byte) :
    Raises s (.loadByte d) .codeTooLargeError ({ s with life := .ready }.raise .codeTooLargeError)
  | fetch (pos : Int) : Raises s (.fetch pos) .memoryOverflowError (s.raise .memoryOverflowError)
  | loadb (a : Nat) : Raises s (.loadb a) .addressOutOfRangeError (s.raise .addressOutOfRangeError)
  | storeb (a : Nat) (d : Byte) : Raises s (.storeb a d) .addressOutOfRangeError (s.raise .addressOutOfRangeError)

/-- A legal rule answers `OK`, or raises its one error. -/
theorem ruleOf_ok_or_raises {i : Instr} {s : State} (hl : Legal (commandOf i) s.life = true) :
    (∃ d, (ruleOf i s).resp = some ⟨.ok, d⟩) ∨
      ∃ e, (ruleOf i s).resp = some ⟨e, []⟩ ∧ Raises s i e (ruleOf i s) := by
  cases i
  case reservedOp9 | reservedOp10 | reservedOp11 | reservedOp12 | reservedOp13 | reservedOp14 | reservedOp15 =>
    cases hl
  case release | loadEnd | insn => exact .inl ⟨_, rfl⟩
  case loadAbort => exact .inr ⟨_, rfl, .loadAbort⟩
  case loadBegin v =>
    cases v
    · exact .inr ⟨_, rfl, .loadBegin⟩
    · exact .inl ⟨_, rfl⟩
  case alloc | loadb | storeb =>
    simp only [ruleOf]
    split
    · exact .inl ⟨_, rfl⟩
    · exact .inr ⟨_, rfl, by constructor⟩
  case loadByte | fetch =>
    simp only [ruleOf]
    split
    · exact .inr ⟨_, rfl, by constructor⟩
    · exact .inl ⟨_, rfl⟩

/-- An error response was raised by a legal instruction and carries no data; a recorded protocol fault presents no
response. -/
theorem exec_raises {i : Instr} {s t : State} {p : Response} (h : exec i s = .next t) (hp : t.resp = some p)
    (herr : p.status ≠ .ok) :
    s.faulted = none ∧ Legal (commandOf i) s.life = true ∧ ∃ e, p = ⟨e, []⟩ ∧ Raises s i e t := by
  obtain ⟨hf, ⟨hl, rfl⟩ | ⟨-, r, -, rfl⟩⟩ := exec_next h
  · refine ⟨hf, hl, ?_⟩
    obtain ⟨d, hok⟩ | ⟨e, he, hraises⟩ := ruleOf_ok_or_raises hl
    · cases hok.symm.trans hp
      exact absurd rfl herr
    · cases he.symm.trans hp
      exact ⟨e, rfl, hraises⟩
  · cases hp

/-- Settles O43, by the one error of each command; the code of `OK` is none of the seven. -/
theorem statusesOfTheCommands : Obligations.StatusesOfTheCommands := by
  refine ⟨by decide, fun s t i p h hp => ?_⟩
  by_cases hok : p.status = .ok
  · simp [hok, Status.code]
  · obtain ⟨-, -, e, rfl, hraises⟩ := exec_raises h hp hok
    cases hraises <;> simp [Status.code]

/-- Settles O45: for `LOAD_ABORT` the write-back is the snapshot, and every other error keeps `mem`. -/
theorem errorsArePrecise : Obligations.ErrorsArePrecise := by
  intro s t i p hs h hp herr
  obtain ⟨-, hl, e, rfl, hraises⟩ := exec_raises h hp herr
  cases hraises
  case loadAbort =>
    have hmem : (ruleOf .loadAbort s).mem = s.snap :=
      loadAbortRestoresTheStorage s _ hs (of_decide_eq_true hl) h
    refine ⟨nofun, fun _ => ?_, fun _ hne => absurd rfl hne⟩
    calc ruleOf .loadAbort s
        = { s with
            mem := (ruleOf .loadAbort s).mem
            life := .ready
            resp := some ⟨.sourceUnavailableError, []⟩ } := rfl
      _ = _ := by rw [hmem]
  case loadByte d => exact ⟨fun _ => rfl, nofun, fun hne => absurd rfl hne⟩
  case alloc => exact ⟨nofun, nofun, fun _ _ => ⟨rfl, fun hne => absurd rfl hne⟩⟩
  case loadBegin | fetch | loadb | storeb => exact ⟨nofun, nofun, fun _ _ => ⟨rfl, fun _ => rfl⟩⟩

/-! ## Addresses out of range (R96, R97) -/

/-- Settles O33. -/
theorem fetchOutOfRangeOverflows : Obligations.FetchOutOfRangeOverflows :=
  fun _ _ hf hl h => exec_fetch_of_overflow hf hl h

/-- Settles O38: both byte accesses make the one check of R84. -/
theorem dataAccessOutOfRange : Obligations.DataAccessOutOfRange := by
  intro s a d hf hl ha
  have hout : ¬ dataInRange s.cfg a = true := mt (dataInRange_iff s.cfg a).1 (not_lt.2 ha)
  constructor
  · rw [exec_of_legal (i := .loadb a) hf (decide_eq_true hl)]
    exact congrArg Host.Outcome.next (if_neg hout)
  · rw [exec_of_legal (i := .storeb a d) hf (decide_eq_true hl)]
    exact congrArg Host.Outcome.next (if_neg hout)

/-! ## The end of a run (R121) -/

theorem State.runEnd_eq_protocolFault_iff {s : State} {r : ProtocolFault} :
    s.runEnd = some (.protocolFault r) ↔ s.faulted = some r := by
  refine ⟨fun h => ?_, State.runEnd_faulted⟩
  obtain ⟨r', hf, he⟩ | ⟨-, -, p, -, ⟨-, -, he⟩ | ⟨-, he⟩⟩ := State.runEnd_some h <;> cases he
  exact hf

theorem State.runEnd_eq_halted_iff {s : State} {e : Status} :
    s.runEnd = some (.halted e) ↔
      s.faulted = none ∧ s.reqs = [] ∧ e ≠ .ok ∧ ∃ p, s.resp = some p ∧ p.status = e := by
  constructor
  · intro h
    obtain ⟨r, -, he⟩ | ⟨hf, hr, p, hp, ⟨-, -, he⟩ | ⟨herr, he⟩⟩ := State.runEnd_some h <;> cases he
    exact ⟨hf, hr, herr, p, hp, rfl⟩
  · rintro ⟨hf, hr, herr, p, hp, rfl⟩
    rw [State.runEnd_answered hf hr hp, if_neg herr]

theorem State.runEnd_eq_released_iff {s : State} :
    s.runEnd = some .released ↔
      s.faulted = none ∧ s.reqs = [] ∧ s.life = .released ∧ ∃ p, s.resp = some p ∧ p.status = .ok := by
  constructor
  · intro h
    obtain ⟨r, -, he⟩ | ⟨hf, hr, p, hp, ⟨hok, hlife, -⟩ | ⟨-, he⟩⟩ := State.runEnd_some h
    · cases he
    · exact ⟨hf, hr, hlife, p, hp, hok⟩
    · cases he
  · rintro ⟨hf, hr, hlife, p, hp, hok⟩
    rw [State.runEnd_answered hf hr hp, if_pos hok, if_pos hlife]

/-- The end by `RELEASE` is the one successful end (log entry 18). -/
theorem RunEnd.successful_iff (e : RunEnd) : e.successful = true ↔ e = .released := by
  cases e <;> simp [RunEnd.successful]

/-- No instruction takes a further request from the port. -/
theorem exec_next_reqs {i : Instr} {s t : State} (h : exec i s = .next t) : t.reqs = s.reqs := by
  obtain ⟨-, ⟨-, rfl⟩ | ⟨-, r, -, rfl⟩⟩ := exec_next h
  · exact ruleOf_reqs i s
  · rfl

/-- `OK` in `RELEASED` is the answer to a `RELEASE`: an `ALLOC` that leaves the storage released has failed, and
every other legal rule starts from storage and leaves it `READY` or `LOADING`. -/
theorem eq_release_of_ruleOf {i : Instr} {s : State} {p : Response} (hl : Legal (commandOf i) s.life = true)
    (hlife : (ruleOf i s).life = .released) (hp : (ruleOf i s).resp = some p) (hok : p.status = .ok) :
    i = .release := by
  cases i
  case release => rfl
  case alloc =>
    cases hd : s.allocOk
    · simp only [ruleOf, hd] at hp
      cases hp
      cases hok
    · simp [ruleOf, hd] at hlife
  all_goals simp_all [ruleOf, commandOf, Legal, apply_ite State.life, ite_eq_iff]

section
variable {i : Instr} {s t : State} (h : exec i s = .next t)
include h

theorem exec_next_runEnd_released_iff :
    t.runEnd = some .released ↔ s.reqs = [] ∧ i = .release ∧ (s.life = .ready ∨ s.life = .loading) := by
  rw [State.runEnd_eq_released_iff, exec_next_reqs h, exec_next_faulted_iff h]
  constructor
  · rintro ⟨hl, hr, hlife, p, hp, hok⟩
    obtain ⟨-, rfl⟩ := exec_next_not_faulted h ((exec_next_faulted_iff h).2 hl)
    obtain rfl := eq_release_of_ruleOf hl hlife hp hok
    exact ⟨hr, rfl, (legal_release_iff _).1 hl⟩
  · rintro ⟨hr, rfl, hlife⟩
    have hl := (legal_release_iff s.life).2 hlife
    obtain ⟨-, rfl⟩ := exec_next_not_faulted h ((exec_next_faulted_iff h).2 hl)
    exact ⟨hl, hr, rfl, _, rfl, rfl⟩

theorem exec_next_runEnd_halted_iff (e : Status) :
    t.runEnd = some (.halted e) ↔ s.reqs = [] ∧ e ≠ .ok ∧ t.resp = some { status := e, data := [] } := by
  rw [State.runEnd_eq_halted_iff, exec_next_reqs h]
  constructor
  · rintro ⟨-, hr, herr, p, hp, rfl⟩
    obtain ⟨-, -, e, rfl, -⟩ := exec_raises h hp herr
    exact ⟨hr, herr, hp⟩
  · rintro ⟨hr, herr, hp⟩
    obtain ⟨-, hl, -⟩ := exec_raises h hp herr
    exact ⟨(exec_next_faulted_iff h).2 hl, hr, herr, _, hp, rfl⟩

theorem exec_next_runEnd_protocolFault_iff :
    (∃ r, t.runEnd = some (.protocolFault r)) ↔ Legal (commandOf i) s.life = false := by
  simp only [State.runEnd_eq_protocolFault_iff]
  rw [← Option.ne_none_iff_exists', Ne, exec_next_faulted_iff h, Bool.not_eq_true]

/-- A `RELEASE` that records no fault was legal, so the run has ended by it if no request follows. -/
theorem exec_next_runEnd_successful_iff :
    (∃ e, t.runEnd = some e ∧ e.successful = true) ↔ s.reqs = [] ∧ t.faulted = none ∧ i = .release := by
  simp only [RunEnd.successful_iff, exists_eq_right]
  rw [exec_next_runEnd_released_iff h, exec_next_faulted_iff h]
  refine and_congr_right fun _ => ⟨?_, ?_⟩
  · rintro ⟨rfl, hlife⟩
    exact ⟨(legal_release_iff _).2 hlife, rfl⟩
  · rintro ⟨hl, rfl⟩
    exact ⟨rfl, (legal_release_iff _).1 hl⟩

end

/-- Settles O52, end by end. -/
theorem runEndsInOneOfThreeWays : Obligations.RunEndsInOneOfThreeWays := by
  intro s t r rs hr h
  rw [stepRunsTheDecodedRequest s r rs hr] at h
  exact ⟨exec_next_runEnd_released_iff h, exec_next_runEnd_halted_iff h,
    exec_next_runEnd_protocolFault_iff (s := { s with reqs := rs }) h, exec_next_runEnd_successful_iff h⟩

end Sys2Proof.Machine
end
